-- ==== Sys2Proof/Word.lean ====
section
/-! DEFINITION. The fixed-width patterns the hardware moves: the 32-bit bus word (R32), the 8-bit register
number (R30) and CONTROL/STATUS pattern (R47, R48), and the model's 48-bit word that names one step. -/

namespace Sys2Proof

/-- The bus data word, and the widest register (R32). -/
abbrev Word := BitVec 32

/-- The register number that selects a register of a bus operation (R30, R46). -/
abbrev RegNum := BitVec 8

/-- A pattern of CONTROL (R47) or STATUS (R48). -/
abbrev Flags8 := BitVec 8

/-- One scheduled step, encoded: bits 7:0 the register number or CONTROL pattern, bits 15:8 the kind of step,
bits 47:16 the data word of a write. The pair (register number, data word) is R56's; the kind field is the
model's own (DESIGN CHOICE, log entry 2). -/
abbrev StepWord := BitVec 48

end Sys2Proof
end

