-- ==== Sys2Proof/Config.lean ====
section
/-! DEFINITION. What fixes one member of the family (R4), the names of the control states (R19), the open
parameter MODE_EFFECT (R104) and the free value of an unmapped read (R35). -/

namespace Sys2Proof

/-- Which pipeline the engine has (R4): FixedPointALU or DotProductEngine. -/
inductive Kind where
  | scalar
  | vector
  deriving DecidableEq, Repr

/-- Which ControlFSM variant the engine has (R4). -/
inductive Fsm where
  | full
  | minimal
  deriving DecidableEq, Repr

/-- The ControlState values (R19). The minimal variant uses `idle` and `compute` only. -/
inductive ControlState where
  | idle
  | compute
  | finish
  | reset
  deriving DecidableEq, Repr

/-- The configuration record of R4. For a scalar engine the five numbers are ignored (R5). -/
structure Config where
  /-- KIND -/
  kind  : Kind
  /-- FSM -/
  fsm   : Fsm
  /-- N, number of lanes -/
  n     : Nat
  /-- W, lane width in bits -/
  w     : Nat
  /-- B, width of BIAS in bits -/
  b     : Nat
  /-- SHIFT, low bits of `final` discarded -/
  shift : Nat
  /-- R, width of RESULT in bits -/
  r     : Nat
  deriving DecidableEq, Repr

/-- R9, `REF_S_FULL`. The numbers of a scalar engine are ignored; zeros are written for them. -/
def Config.refSFull : Config := ⟨.scalar, .full, 0, 0, 0, 0, 0⟩
/-- R9, `REF_S_MIN`. -/
def Config.refSMin : Config := ⟨.scalar, .minimal, 0, 0, 0, 0, 0⟩
/-- R9, `REF_V4_FULL`. -/
def Config.refV4Full : Config := ⟨.vector, .full, 4, 8, 8, 0, 32⟩
/-- R9, `REF_V8_FULL`. -/
def Config.refV8Full : Config := ⟨.vector, .full, 8, 8, 16, 4, 16⟩
/-- R9, `REF_V8_MIN`. -/
def Config.refV8Min : Config := ⟨.vector, .minimal, 8, 8, 16, 4, 16⟩
/-- R9, `REF_V16_FULL`. -/
def Config.refV16Full : Config := ⟨.vector, .full, 16, 8, 16, 4, 16⟩

/-- The open parameter MODE_EFFECT (R104, D10). The spec defines one value of it, `none`. -/
inductive ModeEffect where
  /-- MODE is stored and has no effect. -/
  | none
  deriving DecidableEq, Repr

/-- The value of MODE_EFFECT this model takes: the spec's default (R104; unsafe, log entry 8). -/
def Config.modeEffect : ModeEffect := .none

/-- `draw_32()` of R35 and R68: the n-th pattern answered to a read of an unmapped register number. A free value:
nothing can be proved of it (log entry 5). -/
opaque Config.draw32 : Nat → Word

end Sys2Proof
end

