-- ==== Sys2Proof/Machine/Flags.lean ====
section
/-! DEFINITION. The flags of STATUS (R12, R13, R96, R101) and the internal signals (R21), each a function of the
control state. -/

namespace Sys2Proof.Machine

/-- READY, bit 0 of STATUS (R12, R13). -/
def ready : Fsm → ControlState → Bool
  | .full, st => decide (st = .idle)
  | .minimal, st => decide (st = .idle)

/-- DONE, bit 1 of STATUS: FINISH in the full variant (R12), IDLE in the minimal (R13). -/
def done : Fsm → ControlState → Bool
  | .full, st => decide (st = .finish)
  | .minimal, st => decide (st = .idle)

/-- BUSY, bit 2 of STATUS (R12, R13). -/
def busy : Fsm → ControlState → Bool
  | .full, st => decide (st = .compute)
  | .minimal, st => decide (st = .compute)

/-- STATUS, the view of R12, R13, R48: READY, DONE, BUSY in bits 0, 1, 2 and zeros above. -/
def status (f : Fsm) (st : ControlState) : Flags8 :=
  0#5 ++ BitVec.ofBool (busy f st) ++ BitVec.ofBool (done f st) ++ BitVec.ofBool (ready f st)

/-- The valid pulse, and the `processing` flag of the minimal variant (R21). -/
def validPulse (st : ControlState) : Bool := decide (st = .compute)

end Sys2Proof.Machine
end

