-- ==== Sys2Proof/Machine/Params.lean ====
section
/-! DEFINITION. The quantities derived from the configuration (R5, R7) and its validity (R8). -/

namespace Sys2Proof

/-- `ceil(log2(n))`: the least `e` with `2^e >= n` (00_scope.md section 4). -/
def ceilLog2 (n : Nat) : Nat :=
  ((List.range (n + 1)).find? fun e => n ≤ 2 ^ e).getD 0

/-- `K`, the number of lanes in one operand register (R7). -/
def Config.lanesPerReg (c : Config) : Nat :=
  match c.kind with
  | .scalar => 1
  | .vector => 32 / c.w

/-- `M = ceil(N / K)`, the number of INPUTS registers and of WEIGHTS registers (R7). -/
def Config.operandRegs (c : Config) : Nat :=
  match c.kind with
  | .scalar => 1
  | .vector => (c.n + c.lanesPerReg - 1) / c.lanesPerReg

/-- The width of BIAS: `B`, 32 for a scalar engine (R5). -/
def Config.biasWidth (c : Config) : Nat :=
  match c.kind with
  | .scalar => 32
  | .vector => c.b

/-- The width of RESULT: `R`, 32 for a scalar engine (R5). -/
def Config.resultWidth (c : Config) : Nat :=
  match c.kind with
  | .scalar => 32
  | .vector => c.r

/-- `P = 2 W`, the width of one lane product (R7, vector). -/
def Config.productWidth (c : Config) : Nat := 2 * c.w

/-- `A = P + ceil(log2 N)`, a width that holds the sum of `N` products (R7, vector; documentary). -/
def Config.accWidth (c : Config) : Nat := c.productWidth + ceilLog2 c.n

/-- `F = max(A, B) + 1`, a width that holds `final` (R7, vector; documentary). -/
def Config.finalWidth (c : Config) : Nat := max c.accWidth c.b + 1

/-- Validity of a configuration (R8). -/
def Config.valid (c : Config) : Bool :=
  match c.kind with
  | .scalar => true
  | .vector =>
    decide (1 ≤ c.n) && decide (1 ≤ c.w) && decide (32 % c.w = 0) && decide (c.operandRegs ≤ 64) &&
      decide (1 ≤ c.b) && decide (c.b ≤ 32) && decide (1 ≤ c.r) && decide (c.r ≤ 32)

/-- R19: the control states a variant has. -/
def Fsm.has : Fsm → ControlState → Bool
  | .full, _ => true
  | .minimal, .idle => true
  | .minimal, .compute => true
  | .minimal, .finish => false
  | .minimal, .reset => false

end Sys2Proof
end

