-- ==== Sys2Proof/Machine/Operands.lean ====
section
/-! DEFINITION. Signed values and patterns (00_scope.md section 4, R55), the lanes of an operand register (R18,
R49, R69, R70), and the two pipelines (R75, R80 to R85) with their choice (R98). A pattern of `n <= 32` bits is
held in a `Word` with zeros above. -/

namespace Sys2Proof.Machine

/-- `sint_n(p)`: the two's-complement value of the `n`-bit pattern `p` (R55). -/
def sint (n p : Nat) : Int := if p < 2 ^ (n - 1) then p else (p : Int) - 2 ^ n

/-- `wrap_n(z)`, `z mod 2^n`, as a pattern. -/
def wrapNat (n : Nat) (z : Int) : Nat := (z % 2 ^ n).toNat

/-- `wrap_n(z)` in a word (`n <= 32`). -/
def wrap (n : Nat) (z : Int) : Word := BitVec.ofNat 32 (wrapNat n z)

/-- `z >>a k = floor(z / 2^k)`. -/
def asr (z : Int) (k : Nat) : Int := z / 2 ^ k

/-- The low `n` bits of a bus word, `w[n-1:0]` (R34). -/
def lowBits (n : Nat) (w : Word) : Word := BitVec.ofNat 32 (w.toNat % 2 ^ n)

/-- `unpack_lane(rv, i, w)` (R69). -/
def unpackLane (rv : Word) (i w : Nat) : Int :=
  sint w (rv.toNat / 2 ^ (i % (32 / w) * w) % 2 ^ w)

/-- One word of `pack_lanes`: the first value in the lowest lane (R70). -/
def packWord (w : Nat) : List Int → Nat
  | [] => 0
  | z :: zs => wrapNat w z + 2 ^ w * packWord w zs

/-- `pack_lanes(v, w)` (R70), `ceil(n / K)` words with zeros in the unused lanes. Host software, not a step (R72). -/
def packLanes (v : List Int) (w : Nat) : List Word :=
  (List.range ((v.length + 32 / w - 1) / (32 / w))).map fun j =>
    BitVec.ofNat 32 (packWord w ((v.drop (j * (32 / w))).take (32 / w)))

/-- SMAC's `product`, exact (R75, R76 (a)). -/
def smacProduct (input weight : Word) : Int := sint 32 input.toNat * sint 32 weight.toNat

/-- SMAC's `sum`: the product scaled by 2^-16, then the bias added (R75; the shift comes first, R76 (h)). -/
def smacSum (input weight bias : Word) : Int := asr (smacProduct input weight) 16 + sint 32 bias.toNat

/-- `SMAC` of the three register patterns (R75). -/
def smac (input weight bias : Word) : Word := wrap 32 (smacSum input weight bias)

/-- Lane `i` of a group of operand registers (R18, R80). -/
def lane (c : Config) (regs : List Word) (i : Nat) : Int :=
  unpackLane (regs.getD (i / c.lanesPerReg) 0) i c.w

/-- The `N` lane products (R81). -/
def laneProducts (c : Config) (inputs weights : List Word) : List Int :=
  (List.range c.n).map fun i => lane c inputs i * lane c weights i

/-- One level of the reduction tree from the level below (R82): pairs `(2j, 2j+1)` are added, an unpaired last
element passes through. -/
def pairLevel : List Int → List Int
  | a :: b :: rest => (a + b) :: pairLevel rest
  | [a] => [a]
  | [] => []

/-- The tree above `level`, at most `fuel` levels of it. -/
def reduceLevels : Nat → List Int → Int
  | 0, level => level.headD 0
  | fuel + 1, level => if level.length ≤ 1 then level.headD 0 else reduceLevels fuel (pairLevel level)

/-- `TreeReduce` (R82). A list of `n` values has fewer than `n` levels above it. -/
def treeReduce (p : List Int) : Int := reduceLevels p.length p

/-- `mac_sum` (R80). -/
def macSum (c : Config) (inputs weights : List Word) : Int := treeReduce (laneProducts c inputs weights)

/-- `final = mac_sum + sint_B(Reg[BIAS])` (R84). -/
def vdotFinal (c : Config) (inputs weights : List Word) (bias : Word) : Int :=
  macSum c inputs weights + sint c.biasWidth bias.toNat

/-- Output narrowing, `wrap_R(final >>a SHIFT)` (R85). -/
def narrow (c : Config) (final : Int) : Word := wrap c.resultWidth (asr final c.shift)

/-- `VDOT` of the operand registers and BIAS (R80). -/
def vdot (c : Config) (inputs weights : List Word) (bias : Word) : Word :=
  narrow c (vdotFinal c inputs weights bias)

/-- `Pipeline(Reg)` (R98): `KIND` alone chooses (R53). INPUT and WEIGHT of a scalar engine are INPUTS[0] and
WEIGHTS[0] (R10). -/
def pipelineOut (c : Config) (inputs weights : List Word) (bias : Word) : Word :=
  match c.kind with
  | .scalar => smac (inputs.getD 0 0) (weights.getD 0 0) bias
  | .vector => vdot c inputs weights bias

/-- What MODE does to a committed value (R104, D10): under the only value of MODE_EFFECT the spec defines,
nothing (log entry 8). -/
def applyMode (effect : ModeEffect) (_mode : BitVec 1) (out : Word) : Word :=
  match effect with
  | .none => out

end Sys2Proof.Machine
end

