-- ==== Sys2Proof/Syntax.lean ====
section
/-! DEFINITION. The operations of the hardware (R45): one constructor for each of the 36 rows of
spec/opcode_table.json. -/

namespace Sys2Proof

/-- The two groups of operand registers of a register number (R46, field `g`). -/
inductive OperandGroup where
  /-- `01` -/
  | inputs
  /-- `10` -/
  | weights
  deriving DecidableEq, Repr

/-- The operations of R45. Bus operations carry the free bits of their register number and, for a write, the
data word; a command carries the bits of the sampled CONTROL pattern its row leaves free (R47, R52): `x` is
bits 7:3, `mode` bit 2, `reset` bit 1. Compute operations and engine steps have no operand. -/
inductive Instr where
  | rdControl
  | wrControl (data : Word)
  | rdStatus
  | wrStatus (data : Word)
  | rdBias
  | wrBias (data : Word)
  | rdResult
  | wrResult (data : Word)
  | rdInputs (k : BitVec 6)
  | wrInputs (k : BitVec 6) (data : Word)
  | rdWeights (k : BitVec 6)
  | wrWeights (k : BitVec 6) (data : Word)
  | rdUnmapped04 (k : BitVec 2)
  | wrUnmapped04 (k : BitVec 2) (data : Word)
  | rdUnmapped08 (k : BitVec 3)
  | wrUnmapped08 (k : BitVec 3) (data : Word)
  | rdUnmapped10 (k : BitVec 4)
  | wrUnmapped10 (k : BitVec 4) (data : Word)
  | rdUnmapped20 (k : BitVec 5)
  | wrUnmapped20 (k : BitVec 5) (data : Word)
  | rdUnmappedC0 (k : BitVec 6)
  | wrUnmappedC0 (k : BitVec 6) (data : Word)
  | rdUnmappedOperand (g : OperandGroup) (k : BitVec 6)
  | wrUnmappedOperand (g : OperandGroup) (k : BitVec 6) (data : Word)
  | start (x : BitVec 5) (mode : BitVec 1) (reset : BitVec 1)
  | reset (x : BitVec 5) (mode : BitVec 1)
  | nop (x : BitVec 5) (mode : BitVec 1)
  | smac
  | vdot
  | tickFullIdle
  | tickFullCompute
  | tickFullFinish
  | tickFullReset
  | tickMinIdle
  | tickMinCompute
  | powerOn
  deriving DecidableEq, Repr

end Sys2Proof
end

