-- ==== Sys2Proof/WellFormed.lean ====
section
/-! DEFINITION. What selects an operation (R45, column "selected by") and the check that an operation is one that
the machine can be asked for under that selection. -/

namespace Sys2Proof

/-- What selects the row of a step besides the step's own bits: the configuration, the control state (R45), and
whether `PowerOn()` has happened (R125). -/
structure Selection where
  cfg     : Config
  state   : ControlState
  powered : Bool
  deriving DecidableEq, Repr

/-- The selection right after power-on of `REF_S_FULL`, the instance of `State.reset` (log entry 3). -/
def Selection.reset : Selection := ⟨.refSFull, .idle, true⟩

/-- R45, R30, R125: a mapped operand index is below `M`, an unmapped one is not; a compute operation belongs to
the engine's pipeline and to a tick that begins in COMPUTE; an engine step to its variant and state; POWERON
comes first, everything else after it. -/
def wellFormed (sel : Selection) : Instr → Bool
  | .rdControl | .rdStatus | .rdBias | .rdResult => sel.powered
  | .wrControl _ | .wrStatus _ | .wrBias _ | .wrResult _ => sel.powered
  | .rdInputs k | .rdWeights k => sel.powered && decide (k.toNat < sel.cfg.operandRegs)
  | .wrInputs k _ | .wrWeights k _ => sel.powered && decide (k.toNat < sel.cfg.operandRegs)
  | .rdUnmapped04 _ | .rdUnmapped08 _ | .rdUnmapped10 _ | .rdUnmapped20 _ | .rdUnmappedC0 _ => sel.powered
  | .wrUnmapped04 _ _ | .wrUnmapped08 _ _ | .wrUnmapped10 _ _ | .wrUnmapped20 _ _ | .wrUnmappedC0 _ _ => sel.powered
  | .rdUnmappedOperand _ k => sel.powered && decide (sel.cfg.operandRegs ≤ k.toNat)
  | .wrUnmappedOperand _ k _ => sel.powered && decide (sel.cfg.operandRegs ≤ k.toNat)
  | .start _ _ _ => sel.powered
  | .reset _ _ => sel.powered
  | .nop _ _ => sel.powered
  | .smac => sel.powered && decide (sel.cfg.kind = .scalar) && decide (sel.state = .compute)
  | .vdot => sel.powered && decide (sel.cfg.kind = .vector) && decide (sel.state = .compute)
  | .tickFullIdle => sel.powered && decide (sel.cfg.fsm = .full) && decide (sel.state = .idle)
  | .tickFullCompute => sel.powered && decide (sel.cfg.fsm = .full) && decide (sel.state = .compute)
  | .tickFullFinish => sel.powered && decide (sel.cfg.fsm = .full) && decide (sel.state = .finish)
  | .tickFullReset => sel.powered && decide (sel.cfg.fsm = .full) && decide (sel.state = .reset)
  | .tickMinIdle => sel.powered && decide (sel.cfg.fsm = .minimal) && decide (sel.state = .idle)
  | .tickMinCompute => sel.powered && decide (sel.cfg.fsm = .minimal) && decide (sel.state = .compute)
  | .powerOn => !sel.powered

end Sys2Proof
end

