-- ==== Sys2Proof/Decode.lean ====
section
/-! DEFINITION. The encoding of one step and its decoder and encoder. A step word holds the register number of
R46 or the CONTROL pattern of R47 in bits 7:0, the data word of a write in bits 47:16, and in bits 15:8 the
kind of step, which no bit of the spec's tables tells (log entry 2). -/

namespace Sys2Proof

/-- The kinds of step (R45) as bits 15:8 of a step word spell them (log entry 2). -/
def kindRead : BitVec 8 := 0
def kindWrite : BitVec 8 := 1
def kindCommand : BitVec 8 := 2
def kindCompute : BitVec 8 := 3
def kindTick : BitVec 8 := 4
def kindPowerOn : BitVec 8 := 5

def numberOf (w : StepWord) : RegNum := w.extractLsb' 0 8
def kindOf (w : StepWord) : BitVec 8 := w.extractLsb' 8 8
def dataOf (w : StepWord) : Word := w.extractLsb' 16 32

/-- A step word from its three fields. -/
def stepWord (data : Word) (kind number : BitVec 8) : StepWord := 
  BitVec.cast (show 32 + 8 + 8 = 48 from rfl) (data ++ kind ++ number)

/-- Why a step word names no step. -/
inductive Reject where
  /-- Bits 15:8 hold none of the six kinds. -/
  | unknownKind
  /-- The data field, or the number field of a step that has none, is not zero. -/
  | unusedFieldNotZero
  /-- A step other than POWERON before `PowerOn()` has happened (R125). -/
  | notPoweredOn
  /-- POWERON after `PowerOn()` has happened: R125 gives it no step after the first. -/
  | alreadyPoweredOn
  /-- A compute operation outside a tick that begins in COMPUTE (R45). -/
  | noCommitHere
  /-- A tick in a control state the variant does not have (R19). -/
  | noSuchState
  deriving DecidableEq, Repr

/-- The RD row a register number selects, with `m` operand registers in each group (R46, R60). -/
def decodeRead (m : Nat) (a : RegNum) : Instr :=
  let g : BitVec 2 := a.extractLsb' 6 2
  let k : BitVec 6 := a.extractLsb' 0 6
  if g = 0 then
    if k = 0 then .rdControl
    else if k = 1 then .rdStatus
    else if k = 2 then .rdBias
    else if k = 3 then .rdResult
    else if k < 8 then .rdUnmapped04 (a.extractLsb' 0 2)
    else if k < 16 then .rdUnmapped08 (a.extractLsb' 0 3)
    else if k < 32 then .rdUnmapped10 (a.extractLsb' 0 4)
    else .rdUnmapped20 (a.extractLsb' 0 5)
  else if g = 1 then
    if k.toNat < m then .rdInputs k else .rdUnmappedOperand .inputs k
  else if g = 2 then
    if k.toNat < m then .rdWeights k else .rdUnmappedOperand .weights k
  else .rdUnmappedC0 k

/-- The WR row a register number selects (R46, R61), with its data word. -/
def decodeWrite (m : Nat) (a : RegNum) (data : Word) : Instr :=
  let g : BitVec 2 := a.extractLsb' 6 2
  let k : BitVec 6 := a.extractLsb' 0 6
  if g = 0 then
    if k = 0 then .wrControl data
    else if k = 1 then .wrStatus data
    else if k = 2 then .wrBias data
    else if k = 3 then .wrResult data
    else if k < 8 then .wrUnmapped04 (a.extractLsb' 0 2) data
    else if k < 16 then .wrUnmapped08 (a.extractLsb' 0 3) data
    else if k < 32 then .wrUnmapped10 (a.extractLsb' 0 4) data
    else .wrUnmapped20 (a.extractLsb' 0 5) data
  else if g = 1 then
    if k.toNat < m then .wrInputs k data else .wrUnmappedOperand .inputs k data
  else if g = 2 then
    if k.toNat < m then .wrWeights k data else .wrUnmappedOperand .weights k data
  else .wrUnmappedC0 k data

/-- The command row of a sampled CONTROL pattern (R52): START wins over RESET. -/
def decodeCommand (c : Flags8) : Instr :=
  if c.extractLsb' 0 1 = 1 then .start (c.extractLsb' 3 5) (c.extractLsb' 2 1) (c.extractLsb' 1 1)
  else if c.extractLsb' 1 1 = 1 then .reset (c.extractLsb' 3 5) (c.extractLsb' 2 1)
  else .nop (c.extractLsb' 3 5) (c.extractLsb' 2 1)

/-- The compute row the engine performs (R53): `KIND` alone selects it. -/
def decodeCompute : Kind → Instr
  | .scalar => .smac
  | .vector => .vdot

/-- The TICK row of a variant and a control state (R45, R108); none where the variant lacks the state (R19). -/
def decodeTick : Fsm → ControlState → Option Instr
  | .full, .idle => some .tickFullIdle
  | .full, .compute => some .tickFullCompute
  | .full, .finish => some .tickFullFinish
  | .full, .reset => some .tickFullReset
  | .minimal, .idle => some .tickMinIdle
  | .minimal, .compute => some .tickMinCompute
  | .minimal, .finish => none
  | .minimal, .reset => none

/-- The operation a step word asks for, under the selection the machine is in. Total; what it cannot read it
rejects by name. -/
def decode (sel : Selection) (w : StepWord) : Except Reject Instr :=
  if kindOf w = kindPowerOn then
    if dataOf w ≠ 0 ∨ numberOf w ≠ 0 then .error .unusedFieldNotZero
    else if sel.powered then .error .alreadyPoweredOn
    else .ok .powerOn
  else if sel.powered = false then .error .notPoweredOn
  else if kindOf w = kindWrite then .ok (decodeWrite sel.cfg.operandRegs (numberOf w) (dataOf w))
  else if dataOf w ≠ 0 then .error .unusedFieldNotZero
  else if kindOf w = kindRead then .ok (decodeRead sel.cfg.operandRegs (numberOf w))
  else if kindOf w = kindCommand then .ok (decodeCommand (numberOf w))
  else if numberOf w ≠ 0 then .error .unusedFieldNotZero
  else if kindOf w = kindCompute then
    if sel.state = .compute then .ok (decodeCompute sel.cfg.kind) else .error .noCommitHere
  else if kindOf w = kindTick then
    match decodeTick sel.cfg.fsm sel.state with
    | some i => .ok i
    | none => .error .noSuchState
  else .error .unknownKind

/-- The two high bits of a register number of an operand group (R46). -/
def OperandGroup.bits : OperandGroup → BitVec 2
  | .inputs => 0b01#2
  | .weights => 0b10#2

/-- The step word of an operation, written from the encoding column of the opcode table (R30, R46, R47, R52). -/
def encode : Instr → StepWord
  | .rdControl => stepWord 0 kindRead 0b00000000
  | .wrControl data => stepWord data kindWrite 0b00000000
  | .rdStatus => stepWord 0 kindRead 0b00000001
  | .wrStatus data => stepWord data kindWrite 0b00000001
  | .rdBias => stepWord 0 kindRead 0b00000010
  | .wrBias data => stepWord data kindWrite 0b00000010
  | .rdResult => stepWord 0 kindRead 0b00000011
  | .wrResult data => stepWord data kindWrite 0b00000011
  | .rdInputs k => stepWord 0 kindRead (0b01#2 ++ k)
  | .wrInputs k data => stepWord data kindWrite (0b01#2 ++ k)
  | .rdWeights k => stepWord 0 kindRead (0b10#2 ++ k)
  | .wrWeights k data => stepWord data kindWrite (0b10#2 ++ k)
  | .rdUnmapped04 k => stepWord 0 kindRead (0b000001#6 ++ k)
  | .wrUnmapped04 k data => stepWord data kindWrite (0b000001#6 ++ k)
  | .rdUnmapped08 k => stepWord 0 kindRead (0b00001#5 ++ k)
  | .wrUnmapped08 k data => stepWord data kindWrite (0b00001#5 ++ k)
  | .rdUnmapped10 k => stepWord 0 kindRead (0b0001#4 ++ k)
  | .wrUnmapped10 k data => stepWord data kindWrite (0b0001#4 ++ k)
  | .rdUnmapped20 k => stepWord 0 kindRead (0b001#3 ++ k)
  | .wrUnmapped20 k data => stepWord data kindWrite (0b001#3 ++ k)
  | .rdUnmappedC0 k => stepWord 0 kindRead (0b11#2 ++ k)
  | .wrUnmappedC0 k data => stepWord data kindWrite (0b11#2 ++ k)
  | .rdUnmappedOperand g k => stepWord 0 kindRead (g.bits ++ k)
  | .wrUnmappedOperand g k data => stepWord data kindWrite (g.bits ++ k)
  | .start x mode reset => stepWord 0 kindCommand (x ++ mode ++ reset ++ 0b1#1)
  | .reset x mode => stepWord 0 kindCommand (x ++ mode ++ 0b10#2)
  | .nop x mode => stepWord 0 kindCommand (x ++ mode ++ 0b00#2)
  | .smac => stepWord 0 kindCompute 0
  | .vdot => stepWord 0 kindCompute 0
  | .tickFullIdle => stepWord 0 kindTick 0
  | .tickFullCompute => stepWord 0 kindTick 0
  | .tickFullFinish => stepWord 0 kindTick 0
  | .tickFullReset => stepWord 0 kindTick 0
  | .tickMinIdle => stepWord 0 kindTick 0
  | .tickMinCompute => stepWord 0 kindTick 0
  | .powerOn => stepWord 0 kindPowerOn 0

/-- The step word of a word of the opcode table. The table gives a bus or command row its register number or CONTROL
pattern, 8 bits, and nothing that tells a read, a write and a command of the same 8 bits apart; with the bits
above zero the word is a read. It gives a compute operation and an engine step no bits at all ("not encoded: the
step is issued by the clock"): a word of no bits is the clock's tick (log entry 2). -/
def tableWord (nbits w : Nat) : StepWord :=
  if nbits = 0 then stepWord 0 kindTick 0 else BitVec.ofNat 48 (w % 2 ^ nbits)

/-- What the decoder reads from a word of the opcode table, under the selection right after reset. -/
def decodeTableWord (nbits w : Nat) : Option Instr :=
  match decode .reset (tableWord nbits w) with
  | .ok i => some i
  | .error _ => none

end Sys2Proof
end

