-- ==== Sys2Proof/Machine/State.lean ====
section
/-! DEFINITION. The state of one engine (R10, R19), what the model keeps beside it (the schedule of R39, the
free-value counter of R35, the host's side of a read, whether power-on has happened), the reasons a step can
stop, and the state after reset (R24, R125). -/

namespace Sys2Proof.Machine

/-- Why the machine stops with a fault: never. "A model has no fault state for this hardware" (R122; R110). -/
inductive Fault : Type
  deriving DecidableEq, Repr

/-- Why an operation has no next state here. -/
inductive Refusal where
  /-- Raised by `exec` for an operation that has no meaning yet. Safe. -/
  | notModelled (mnemonic : String)
  /-- Raised by `step` for a scheduled word that names no step of the machine. Safe. -/
  | undecodable (why : Reject)
  /-- Raised by a compute operation or an engine step that the configuration and the control state do not
  select (R45, opcode table "selected_by"): the hardware cannot take that step there. Safe. -/
  | notSelected
  /-- Raised by a command in a control state the FSM variant does not have (R19). Safe: no run reaches it. -/
  | noSuchState
  /-- Raised by POWERON for a configuration that R8 calls invalid: R113, "a model refuses it before creating
  any state". Safe. -/
  | invalidConfig
  /-- Raised by POWERON after the first (R125: "a model gives it no step after the first"). Safe. -/
  | alreadyPoweredOn
  deriving DecidableEq, Repr

structure State where
  /-- The configuration (R4): fixed when the hardware is built, changed by no step. -/
  cfg     : Config
  /-- The model's own: `PowerOn()` has happened (R125; log entry 4). -/
  powered : Bool
  /-- ControlState (R19). -/
  state   : ControlState
  /-- CONTROL, 8 bits (R11). -/
  control : Flags8
  /-- INPUTS[0..M-1], 32 bits each (R14). -/
  inputs  : List Word
  /-- WEIGHTS[0..M-1], 32 bits each (R15). -/
  weights : List Word
  /-- BIAS: its `B`-bit pattern, zeros above (R16). -/
  bias    : Word
  /-- RESULT: its `R`-bit pattern, zeros above (R17). -/
  result  : Word
  /-- The model's own: the schedule (R39), the step words still to come, soonest first (log entry 1). -/
  pending : List StepWord
  /-- The model's own: how many free values `draw_32()` has given (R35; log entry 5). -/
  draws   : Nat
  /-- The model's own, on the host's side of the bus: the word the latest `BusRead` returned (R60; log entry 6). -/
  readOut : Option Word
  deriving DecidableEq, Repr

/-- The state `PowerOn()` creates (R24, R125) for a configuration; the zeros of the registers are the spec's
decision D16. -/
def State.powerOn (c : Config) : State where
  cfg := c
  powered := true
  state := .idle
  control := 0
  inputs := List.replicate c.operandRegs 0
  weights := List.replicate c.operandRegs 0
  bias := 0
  result := 0
  pending := []
  draws := 0
  readOut := none

/-- The machine right after reset: `REF_S_FULL` (log entry 3) after `PowerOn()`. -/
def State.reset : State := State.powerOn .refSFull

end Sys2Proof.Machine
end

