-- ==== Sys2Proof/Machine/Ops.lean ====
section
/-! DEFINITION. The named operations over the state that the meanings share: answering a read, storing a
register, sampling and clearing CONTROL, the transition table, the commit and the tick (R90). The hardware has no memory (R25) and no
exception (R110), so there is no memory operation and no exception entry here. -/

namespace Sys2Proof.Machine

/-- What `decode` needs to know of the state. -/
def State.selection (s : State) : Selection := ⟨s.cfg, s.state, s.powered⟩

/-- The answer of a `BusRead`: the host receives `w`, no state of the hardware changes (R60). -/
def answer (w : Word) (s : State) : State := { s with readOut := some w }

/-- The answer of a read of an unmapped number: `draw_32()`, fresh at each read (R35, R68). -/
def answerFree (s : State) : State :=
  { s with readOut := some (Config.draw32 s.draws), draws := s.draws + 1 }

def setControl (c : Flags8) (s : State) : State := { s with control := c }
def setInput (k : Nat) (w : Word) (s : State) : State := { s with inputs := s.inputs.set k w }
def setWeight (k : Nat) (w : Word) (s : State) : State := { s with weights := s.weights.set k w }
def setBias (w : Word) (s : State) : State := { s with bias := w }
def setResult (w : Word) (s : State) : State := { s with result := w }
def setState (st : ControlState) (s : State) : State := { s with state := st }

/-- `Reg[INPUTS[k]]` and `Reg[WEIGHTS[k]]`, `k < M`. -/
def readInput (k : Nat) (s : State) : Word := s.inputs.getD k 0
def readWeight (k : Nat) (s : State) : Word := s.weights.getD k 0

/-- STATUS as the host sees it (R12, R13). -/
def statusOf (s : State) : Flags8 := status s.cfg.fsm s.state

/-- `zext_32` of an 8-bit register (R33). -/
def zext32 (p : Flags8) : Word := p.setWidth 32

/-- The command a tick decodes from the sampled CONTROL (R52, R90). -/
inductive Command where
  | start
  | reset
  | nop
  deriving DecidableEq, Repr

def commandOf (c : Flags8) : Command :=
  if c.getLsbD 0 then .start else if c.getLsbD 1 then .reset else .nop

/-- `{c[7:1], 0}`: the sampled CONTROL with START consumed (R91). -/
def startCleared (c : Flags8) : Flags8 := c.extractLsb' 1 7 ++ 0#1

/-- `Next(FSM, s, cmd)`, the table of R108; none in a state the variant lacks (R19). -/
def nextState : Fsm → ControlState → Command → Option ControlState
  | .full, .idle, .start => some .compute
  | .full, .idle, .reset => some .reset
  | .full, .idle, .nop => some .idle
  | .full, .compute, _ => some .finish
  | .full, .finish, _ => some .idle
  | .full, .reset, _ => some .idle
  | .minimal, .idle, .start => some .compute
  | .minimal, .idle, .reset => some .idle
  | .minimal, .idle, .nop => some .idle
  | .minimal, .compute, _ => some .idle
  | .minimal, .finish, _ => none
  | .minimal, .reset, _ => none

/-- `Pipeline(Reg)` of the state (R98). -/
def pipeline (s : State) : Word := pipelineOut s.cfg s.inputs s.weights s.bias

/-- The commit (R97): RESULT takes a pipeline output; MODE, bit 2 of CONTROL, has MODE_EFFECT on it (none). -/
def commit (out : Word) (s : State) : State :=
  setResult (applyMode Config.modeEffect (s.control.extractLsb' 2 1) out) s

/-- The commit of R97 if the tick begins in COMPUTE, nothing otherwise. -/
def commitIfComputing (s : State) : State :=
  if s.state = .compute then commit (pipeline s) s else s

/-- `Tick()` with the pattern it samples (R90): everything is computed from the state as the tick finds it. -/
def sampleTick (c : Flags8) (s : State) : Option State :=
  match nextState s.cfg.fsm s.state (commandOf c) with
  | some st => some (setState st (setControl (startCleared c) (commitIfComputing s)))
  | none => none

/-- `Tick()` (R90): CONTROL is sampled once. -/
def tick (s : State) : Option State := sampleTick s.control s

/-- A step that only a selected row can take (R45). -/
def whenSelected (sel : Bool) (t : State) : Host.Outcome State Fault Refusal :=
  if sel then .next t else .refused .notSelected

/-- A command as a tick that samples its pattern (R52, R102 to R104). -/
def runCommand (c : Flags8) (s : State) : Host.Outcome State Fault Refusal :=
  match sampleTick c s with
  | some t => .next t
  | none => .refused .noSuchState

end Sys2Proof.Machine
end

