-- ==== Sys2Proof/Machine/Bus.lean ====
section
/-! DEFINITION. The meanings of the bus operations (R62 to R68). Every one is total and completes (R110). -/

namespace Sys2Proof.Machine

/-- R62: the eight stored bits, START included, zero-extended. -/
def execRdControl (s : State) : Host.Outcome State Fault Refusal := .next (answer (zext32 s.control) s)

/-- R62: all eight bits of `w[7:0]` are stored; neither `state` nor STATUS changes. -/
def execWrControl (data : Word) (s : State) : Host.Outcome State Fault Refusal :=
  .next (setControl (data.extractLsb' 0 8) s)

/-- R63: STATUS, zero-extended; no flag is cleared. -/
def execRdStatus (s : State) : Host.Outcome State Fault Refusal := .next (answer (zext32 (statusOf s)) s)

/-- R63, R111: ignored, no effect, no signal. -/
def execWrStatus (_data : Word) (s : State) : Host.Outcome State Fault Refusal := .next s

/-- R66: the `B` stored bits, zeros above, not sign-extended. -/
def execRdBias (s : State) : Host.Outcome State Fault Refusal := .next (answer s.bias s)

/-- R66: `w[B-1:0]` is stored, the rest dropped. -/
def execWrBias (data : Word) (s : State) : Host.Outcome State Fault Refusal :=
  .next (setBias (lowBits s.cfg.biasWidth data) s)

/-- R67: the `R` bits last committed, zeros above; DONE is not cleared. -/
def execRdResult (s : State) : Host.Outcome State Fault Refusal := .next (answer s.result s)

/-- R67, R111: ignored. -/
def execWrResult (_data : Word) (s : State) : Host.Outcome State Fault Refusal := .next s

/-- R64 for `k < M`; otherwise the number is unmapped and R68 applies (opcode table, field k). -/
def execRdInputs (k : BitVec 6) (s : State) : Host.Outcome State Fault Refusal :=
  .next (if k.toNat < s.cfg.operandRegs then answer (readInput k.toNat s) s else answerFree s)

/-- R64 for `k < M`: all 32 bits are stored; otherwise R68, ignored. -/
def execWrInputs (k : BitVec 6) (data : Word) (s : State) : Host.Outcome State Fault Refusal :=
  .next (if k.toNat < s.cfg.operandRegs then setInput k.toNat data s else s)

/-- R65 for `k < M`; otherwise R68. -/
def execRdWeights (k : BitVec 6) (s : State) : Host.Outcome State Fault Refusal :=
  .next (if k.toNat < s.cfg.operandRegs then answer (readWeight k.toNat s) s else answerFree s)

/-- R65 for `k < M`; otherwise R68, ignored. -/
def execWrWeights (k : BitVec 6) (data : Word) (s : State) : Host.Outcome State Fault Refusal :=
  .next (if k.toNat < s.cfg.operandRegs then setWeight k.toNat data s else s)

/-- R68, numbers 0x04 to 0x07. -/
def execRdUnmapped04 (_k : BitVec 2) (s : State) : Host.Outcome State Fault Refusal := .next (answerFree s)
def execWrUnmapped04 (_k : BitVec 2) (_data : Word) (s : State) : Host.Outcome State Fault Refusal := .next s

/-- R68, numbers 0x08 to 0x0F. -/
def execRdUnmapped08 (_k : BitVec 3) (s : State) : Host.Outcome State Fault Refusal := .next (answerFree s)
def execWrUnmapped08 (_k : BitVec 3) (_data : Word) (s : State) : Host.Outcome State Fault Refusal := .next s

/-- R68, numbers 0x10 to 0x1F. -/
def execRdUnmapped10 (_k : BitVec 4) (s : State) : Host.Outcome State Fault Refusal := .next (answerFree s)
def execWrUnmapped10 (_k : BitVec 4) (_data : Word) (s : State) : Host.Outcome State Fault Refusal := .next s

/-- R68, numbers 0x20 to 0x3F. -/
def execRdUnmapped20 (_k : BitVec 5) (s : State) : Host.Outcome State Fault Refusal := .next (answerFree s)
def execWrUnmapped20 (_k : BitVec 5) (_data : Word) (s : State) : Host.Outcome State Fault Refusal := .next s

/-- R68, numbers 0xC0 to 0xFF. -/
def execRdUnmappedC0 (_k : BitVec 6) (s : State) : Host.Outcome State Fault Refusal := .next (answerFree s)
def execWrUnmappedC0 (_k : BitVec 6) (_data : Word) (s : State) : Host.Outcome State Fault Refusal := .next s

/-- R68, numbers 0x40 + k and 0x80 + k with `k >= M`; below `M` the number is mapped and R60 reads it. -/
def execRdUnmappedOperand (g : OperandGroup) (k : BitVec 6) (s : State) : Host.Outcome State Fault Refusal :=
  .next (if k.toNat < s.cfg.operandRegs then
      match g with
      | .inputs => answer (readInput k.toNat s) s
      | .weights => answer (readWeight k.toNat s) s
    else answerFree s)

/-- R68, numbers 0x40 + k and 0x80 + k with `k >= M`; below `M` the number is mapped and R61 writes it. -/
def execWrUnmappedOperand (g : OperandGroup) (k : BitVec 6) (data : Word) (s : State) :
    Host.Outcome State Fault Refusal :=
  .next (if k.toNat < s.cfg.operandRegs then
      match g with
      | .inputs => setInput k.toNat data s
      | .weights => setWeight k.toNat data s
    else s)

end Sys2Proof.Machine
end

