-- ==== Sys2Proof/Machine/Command.lean ====
section
/-! DEFINITION. The meanings of the commands (R102 to R104): the tick that samples the command's CONTROL pattern
(log entry 7). -/

namespace Sys2Proof.Machine

/-- R102, R105: in IDLE the operation starts, in any other state the command does nothing; bit 0 is cleared. -/
def execStart (x : BitVec 5) (mode reset : BitVec 1) (s : State) : Host.Outcome State Fault Refusal :=
  runCommand (x ++ mode ++ reset ++ 0b1#1) s

/-- R103: looked at in IDLE of the full variant only; bit 1 stays. -/
def execReset (x : BitVec 5) (mode : BitVec 1) (s : State) : Host.Outcome State Fault Refusal :=
  runCommand (x ++ mode ++ 0b10#2) s

/-- R104: the unconditional transition of the state, or IDLE stays. -/
def execNop (x : BitVec 5) (mode : BitVec 1) (s : State) : Host.Outcome State Fault Refusal :=
  runCommand (x ++ mode ++ 0b00#2) s

end Sys2Proof.Machine
end

