-- ==== Sys2Proof/Machine/Engine.lean ====
section
/-! DEFINITION. The meanings of the engine steps: TICK in each state of each variant (R92 to R95, R99, R100), the
compute operations, which are the tick that commits (R53, R75, R80, R97), and POWERON (R125). -/

namespace Sys2Proof.Machine

/-- What every tick does to CONTROL: START is consumed (R91). -/
def consumeStart (s : State) : State := setControl (startCleared s.control) s

/-- The state after the tick that ends COMPUTE (R93, R100). -/
def afterCompute : Fsm → ControlState
  | .full => .finish
  | .minimal => .idle

/-- R92. -/
def execTickFullIdle (s : State) : Host.Outcome State Fault Refusal :=
  whenSelected (decide (s.cfg.fsm = .full) && decide (s.state = .idle))
    (match commandOf s.control with
    | .start => consumeStart (setState .compute s)
    | .reset => consumeStart (setState .reset s)
    | .nop => consumeStart s)

/-- R93, R97: RESULT takes the pipeline output, whatever the command. -/
def execTickFullCompute (s : State) : Host.Outcome State Fault Refusal :=
  whenSelected (decide (s.cfg.fsm = .full) && decide (s.state = .compute))
    (consumeStart (setState .finish (commit (pipeline s) s)))

/-- R94. -/
def execTickFullFinish (s : State) : Host.Outcome State Fault Refusal :=
  whenSelected (decide (s.cfg.fsm = .full) && decide (s.state = .finish)) (consumeStart (setState .idle s))

/-- R95: nothing is cleared but the flags. -/
def execTickFullReset (s : State) : Host.Outcome State Fault Refusal :=
  whenSelected (decide (s.cfg.fsm = .full) && decide (s.state = .reset)) (consumeStart (setState .idle s))

/-- R99: the RESET bit has no effect. -/
def execTickMinIdle (s : State) : Host.Outcome State Fault Refusal :=
  whenSelected (decide (s.cfg.fsm = .minimal) && decide (s.state = .idle))
    (match commandOf s.control with
    | .start => consumeStart (setState .compute s)
    | .reset => consumeStart s
    | .nop => consumeStart s)

/-- R100, R97. -/
def execTickMinCompute (s : State) : Host.Outcome State Fault Refusal :=
  whenSelected (decide (s.cfg.fsm = .minimal) && decide (s.state = .compute))
    (consumeStart (setState .idle (commit (pipeline s) s)))

/-- R75, R97: the tick that commits the scalar pipeline. -/
def execSmac (s : State) : Host.Outcome State Fault Refusal :=
  whenSelected (decide (s.cfg.kind = .scalar) && decide (s.state = .compute))
    (consumeStart (setState (afterCompute s.cfg.fsm)
      (commit (smac (readInput 0 s) (readWeight 0 s) s.bias) s)))

/-- R80, R97: the tick that commits the vector pipeline. -/
def execVdot (s : State) : Host.Outcome State Fault Refusal :=
  whenSelected (decide (s.cfg.kind = .vector) && decide (s.state = .compute))
    (consumeStart (setState (afterCompute s.cfg.fsm) (commit (vdot s.cfg s.inputs s.weights s.bias) s)))

/-- R125, R24: the state is created, once, for a valid configuration (R113). What the host has scheduled and has
read is not the engine's and stays. -/
def execPowerOn (s : State) : Host.Outcome State Fault Refusal :=
  if s.powered then .refused .alreadyPoweredOn
  else if s.cfg.valid then
    .next { s with
      powered := true
      state := .idle
      control := 0
      inputs := List.replicate s.cfg.operandRegs 0
      weights := List.replicate s.cfg.operandRegs 0
      bias := 0
      result := 0 }
  else .refused .invalidConfig

end Sys2Proof.Machine
end

