-- ==== Sys2Proof/Machine/Dispatch.lean ====
section
/-! DEFINITION. One arm per operation of the opcode table. -/

namespace Sys2Proof.Machine

def exec (i : Instr) (s : State) : Host.Outcome State Fault Refusal :=
  match i with
  | .rdControl => Sys2Proof.Machine.execRdControl s
  | .wrControl data => Sys2Proof.Machine.execWrControl data s
  | .rdStatus => Sys2Proof.Machine.execRdStatus s
  | .wrStatus data => Sys2Proof.Machine.execWrStatus data s
  | .rdBias => Sys2Proof.Machine.execRdBias s
  | .wrBias data => Sys2Proof.Machine.execWrBias data s
  | .rdResult => Sys2Proof.Machine.execRdResult s
  | .wrResult data => Sys2Proof.Machine.execWrResult data s
  | .rdInputs k => Sys2Proof.Machine.execRdInputs k s
  | .wrInputs k data => Sys2Proof.Machine.execWrInputs k data s
  | .rdWeights k => Sys2Proof.Machine.execRdWeights k s
  | .wrWeights k data => Sys2Proof.Machine.execWrWeights k data s
  | .rdUnmapped04 k => Sys2Proof.Machine.execRdUnmapped04 k s
  | .wrUnmapped04 k data => Sys2Proof.Machine.execWrUnmapped04 k data s
  | .rdUnmapped08 k => Sys2Proof.Machine.execRdUnmapped08 k s
  | .wrUnmapped08 k data => Sys2Proof.Machine.execWrUnmapped08 k data s
  | .rdUnmapped10 k => Sys2Proof.Machine.execRdUnmapped10 k s
  | .wrUnmapped10 k data => Sys2Proof.Machine.execWrUnmapped10 k data s
  | .rdUnmapped20 k => Sys2Proof.Machine.execRdUnmapped20 k s
  | .wrUnmapped20 k data => Sys2Proof.Machine.execWrUnmapped20 k data s
  | .rdUnmappedC0 k => Sys2Proof.Machine.execRdUnmappedC0 k s
  | .wrUnmappedC0 k data => Sys2Proof.Machine.execWrUnmappedC0 k data s
  | .rdUnmappedOperand g k => Sys2Proof.Machine.execRdUnmappedOperand g k s
  | .wrUnmappedOperand g k data => Sys2Proof.Machine.execWrUnmappedOperand g k data s
  | .start x mode reset => Sys2Proof.Machine.execStart x mode reset s
  | .reset x mode => Sys2Proof.Machine.execReset x mode s
  | .nop x mode => Sys2Proof.Machine.execNop x mode s
  | .smac => Sys2Proof.Machine.execSmac s
  | .vdot => Sys2Proof.Machine.execVdot s
  | .tickFullIdle => Sys2Proof.Machine.execTickFullIdle s
  | .tickFullCompute => Sys2Proof.Machine.execTickFullCompute s
  | .tickFullFinish => Sys2Proof.Machine.execTickFullFinish s
  | .tickFullReset => Sys2Proof.Machine.execTickFullReset s
  | .tickMinIdle => Sys2Proof.Machine.execTickMinIdle s
  | .tickMinCompute => Sys2Proof.Machine.execTickMinCompute s
  | .powerOn => Sys2Proof.Machine.execPowerOn s

end Sys2Proof.Machine
end

