-- ==== Sys2Proof/Machine/Fetch.lean ====
section
/-! DEFINITION. Where the next step comes from: the schedule of R39, held as plain data. The hardware fetches no
instruction (R20); the next step is the next entry of the schedule, or, when the schedule names none, what the
platform does by itself: the clock's tick (R90), or power-on if that has not happened (R125; log entry 1). -/

namespace Sys2Proof.Machine

/-- The step that comes with nothing scheduled. -/
def unscheduled (s : State) : StepWord :=
  if s.powered then stepWord 0 kindTick 0 else stepWord 0 kindPowerOn 0

/-- The next step word, and the state with it taken off the schedule. -/
def fetch (s : State) : StepWord × State :=
  match s.pending with
  | [] => (unscheduled s, s)
  | w :: rest => (w, { s with pending := rest })

/-- `s` with a step word placed at the head of the schedule, in a machine that can take it: powered on, but for
POWERON, which comes first (R125); in COMPUTE for a compute operation (R45). -/
def placeWord (w : StepWord) (s : State) : State :=
  { s with
    pending := w :: s.pending
    powered := decide (kindOf w ≠ kindPowerOn)
    state := if kindOf w = kindCompute then .compute else s.state }

end Sys2Proof.Machine
end

