-- ==== Sys2Proof/Machine/Step.lean ====
section
/-! DEFINITION. One atomic step of the machine (R39): the next entry of the schedule is decoded and run. -/

namespace Sys2Proof.Machine

def step (s : State) : Host.Outcome State Fault Refusal :=
  match decode (fetch s).2.selection (fetch s).1 with
  | .ok i => exec i (fetch s).2
  | .error why => .refused (.undecodable why)

/-- `s` with the instruction whose bits are `w` placed so that the next step runs it (log entry 2). -/
def State.withFetchWord (s : State) (nbits w : Nat) : State :=
  placeWord (tableWord nbits w) s

end Sys2Proof.Machine
end

