-- ==== Sys2Proof/Safety.lean ====
section
/-! DEFINITION. What counts as a good state and a good run, in the terms claims use: the shape of the state that
the spec fixes (R10 to R19), the operand ranges of R135, and the bounds R83 and R84 give. -/

namespace Sys2Proof.Machine

/-- The shape every state of the hardware has: a valid configuration (R8), `M` INPUTS and `M` WEIGHTS registers
(R7, R14, R15), a `B`-bit BIAS (R16), an `R`-bit RESULT (R17), and a control state of its variant (R19). -/
abbrev State.Wf (s : State) : Prop :=
  s.cfg.valid = true ∧ s.inputs.length = s.cfg.operandRegs ∧ s.weights.length = s.cfg.operandRegs ∧
    s.bias.toNat < 2 ^ s.cfg.biasWidth ∧ s.result.toNat < 2 ^ s.cfg.resultWidth ∧
    s.cfg.fsm.has s.state = true

/-- `s` has the configuration, the shape and the power of a running engine. -/
abbrev State.Running (s : State) : Prop := s.Wf ∧ s.powered = true

/-- The step from `s` completes: no fault, no refusal. -/
def Completes (s : State) : Prop := ∃ t, step s = .next t

/-- `k` steps, stopping at the first fault or refusal. -/
def runSteps : Nat → State → Host.Outcome State Fault Refusal
  | 0, s => .next s
  | k + 1, s =>
    match step s with
    | .next t => runSteps k t
    | .fault f => .fault f
    | .refused r => .refused r

/-- A value of `n` signed bits. -/
abbrev FitsSigned (n : Nat) (z : Int) : Prop := -(2 ^ (n - 1)) ≤ z ∧ z < 2 ^ (n - 1)

/-- The operands of a scalar engine are in the range where RESULT is exact (R135). -/
abbrev ScalarExact (input weight bias : Word) : Prop := FitsSigned 32 (smacSum input weight bias)

/-- The operands of a vector engine are in the range where RESULT is exact (R135). -/
abbrev VectorExact (c : Config) (inputs weights : List Word) (bias : Word) : Prop :=
  FitsSigned c.resultWidth (asr (vdotFinal c inputs weights bias) c.shift)

end Sys2Proof.Machine
end

