-- ==== Sys2Proof/Certificates/Slice0/Obligations.lean ====
section
/-! DEFINITION. The statements about the machine, from the numbered rules of spec/. Nothing is proved here. A
statement that rests on a choice of the spec (a decision D<n> of 92_eei_decisions.md) or of the model (a log entry)
says so in its docstring. For all of them: signed patterns are two's complement (R55, decision D31, log entry 11);
the schedule, the step word with its kind field and the word last read are the model's (log entries 1, 2 and 6);
every valid configuration is meant, also beyond the shapes the source documents (decisions D1 and D19, log entry
20). -/

open Sys2Proof Sys2Proof.Machine

/-! ### Encodings and the step -/

/-- Decoding the encoding of a well-formed operation gives the operation back, with every operand at every value
its row admits and under every selection it is well-formed in (R45, R47, R52; R30, R46 with the register numbers of
decision D2, log entry 16; the kind field is the model's, log entry 2). -/
def Obligations.EncodeThenDecodeGivesTheOperation : Prop :=
  ∀ sel i, wellFormed sel i = true → decode sel (encode i) = .ok i

/-- A step word that decodes has one meaning: the operation is well-formed and its encoding is the word again, so
no bit of the word is dropped (R46, R47; the register numbers are the spec's decision D2, log entry 16; kind field:
log entry 2). -/
def Obligations.DecodedWordIsTheEncodingOfItsOperation : Prop :=
  ∀ sel w i, decode sel w = .ok i → wellFormed sel i = true ∧ encode i = w

/-- Step words decode to what they stand for: bus words written out from the encodings of the spec's programs P1, P3,
P5 and P6; two more from R46's table (0x43, INPUTS[3], and 0xC1, unmapped), which are in no program; CONTROL patterns of
R52; and the words of steps that have no bits of their own. The register numbers in the bus words, 0x40 and 0x81 among
them, are R46's, the spec's decision D2 (log entry 16); the kind field of every word, and so the whole word of a step
without bits, is the model's (log entry 2). -/
def Obligations.StepWordsOfTheSpecDecodeToTheirSteps : Prop :=
  let s : Selection := ⟨.refV16Full, .idle, true⟩
  decode s 0x00010000_01_40#48 = .ok (.wrInputs 0 0x00010000) ∧
  decode s 0x01020304_01_81#48 = .ok (.wrWeights 1 0x01020304) ∧
  decode s 0xFFFFFFFB_01_02#48 = .ok (.wrBias 0xFFFFFFFB) ∧
  decode s 0x00000001_01_00#48 = .ok (.wrControl 1) ∧
  decode s 0xDEADBEEF_01_03#48 = .ok (.wrResult 0xDEADBEEF) ∧
  decode s 0x00000000_00_01#48 = .ok .rdStatus ∧
  decode s 0x00000000_00_03#48 = .ok .rdResult ∧
  decode s 0x00000000_00_43#48 = .ok (.rdInputs 3) ∧
  decode s 0x00000000_00_44#48 = .ok (.rdUnmappedOperand .inputs 4) ∧
  decode s 0x00000000_00_05#48 = .ok (.rdUnmapped04 1) ∧
  decode s 0x00000000_00_C1#48 = .ok (.rdUnmappedC0 1) ∧
  decode s 0x00000000_02_05#48 = .ok (.start 0 1 0) ∧
  decode s 0x00000000_02_FA#48 = .ok (.reset 0b11111 0) ∧
  decode s 0x00000000_04_00#48 = .ok .tickFullIdle ∧
  decode ⟨.refV8Min, .compute, true⟩ 0x00000000_03_00#48 = .ok .vdot ∧
  decode ⟨.refSMin, .compute, true⟩ 0x00000000_04_00#48 = .ok .tickMinCompute ∧
  decode ⟨.refSMin, .idle, false⟩ 0x00000000_05_00#48 = .ok .powerOn

/-- R52: the command a CONTROL pattern decodes to, by its two low bits, in the table's form and in the match and
mask form; START wins; bits 7:2 are carried and take no part. -/
def Obligations.ControlPatternDecodesToItsCommand : Prop :=
  ∀ c : Flags8,
    (c &&& 0x01 = 0x01 → commandOf c = .start ∧
      decodeCommand c = .start (c.extractLsb' 3 5) (c.extractLsb' 2 1) (c.extractLsb' 1 1)) ∧
    (c &&& 0x03 = 0x02 → commandOf c = .reset ∧ decodeCommand c = .reset (c.extractLsb' 3 5) (c.extractLsb' 2 1)) ∧
    (c &&& 0x03 = 0x00 → commandOf c = .nop ∧ decodeCommand c = .nop (c.extractLsb' 3 5) (c.extractLsb' 2 1)) ∧
    commandOf c = commandOf (c &&& 0x03)

/-- A step takes the next word off the schedule and runs what it decodes to; with nothing scheduled it runs the
clock's tick, or POWERON before power-on; a word that does not decode is refused (R39; the schedule as a list
and the unscheduled step are the model's, log entry 1). -/
def Obligations.StepRunsTheDecodedOperation : Prop :=
  (∀ s w rest i, s.pending = w :: rest → decode ⟨s.cfg, s.state, s.powered⟩ w = .ok i →
    step s = exec i { s with pending := rest }) ∧
  (∀ s w rest r, s.pending = w :: rest → decode ⟨s.cfg, s.state, s.powered⟩ w = .error r →
    step s = .refused (.undecodable r)) ∧
  (∀ s i, s.pending = [] → s.powered = true → decodeTick s.cfg.fsm s.state = some i → step s = exec i s) ∧
  (∀ s, s.pending = [] → s.powered = false → step s = exec .powerOn s)

/-- `withFetchWord` makes the very next step run the word it places: any bus or command word in a state that is
powered on, a compute word (in COMPUTE), a tick, and POWERON; a word of no bits is the clock's tick (log entries 1
and 2). -/
def Obligations.PlacedWordIsRunByTheNextStep : Prop :=
  (∀ (s : State) i, decodeTick s.cfg.fsm s.state = some i →
    step (s.withFetchWord 0 0) = exec i { s with powered := true }) ∧
  ∀ (s : State) (w : StepWord) (i : Instr),
    decode ⟨s.cfg, if kindOf w = kindCompute then .compute else s.state, decide (kindOf w ≠ kindPowerOn)⟩ w = .ok i →
    step (s.withFetchWord 48 w.toNat) = exec i { s with
      state := if kindOf w = kindCompute then .compute else s.state
      powered := decide (kindOf w ≠ kindPowerOn) }

/-! ### Invariants and whole-machine rules -/

/-- Every step keeps the shape of the state: a valid configuration, `M` operand registers in each group, BIAS in `B`
bits, RESULT in `R` bits, and a control state the variant has (R8, R10, R14 to R17, R19). It rests on the spec's
decisions D15, the minimal variant has no RESET state (log entry 12); D19, the admitted shapes (log entry 20). BIAS
and RESULT stand in 32 bits with zeros above (log entry 27). -/
def Obligations.EveryStepKeepsTheStateWellFormed : Prop :=
  ∀ s t : State, s.Wf → step s = .next t → t.Wf

/-- The state after reset has that shape and is powered on (R24, R125; the configuration is log entry 3). It rests
on the spec's decision D16, the registers are zero after power-on (log entry 10). -/
def Obligations.ResetStateIsWellFormed : Prop := State.reset.Running

/-- "Every operation is a total function" (R110): in a running engine every well-formed operation completes, with a
running engine after it; so a step can only fail to complete at a scheduled word that does not decode (the schedule
as a list and the unscheduled step are the model's, log entry 1). A command or a compute operation as a step is the
model's reading (log entry 7, DEDUCED). -/
def Obligations.EveryWellFormedOperationCompletes : Prop :=
  (∀ s i, s.Running → wellFormed ⟨s.cfg, s.state, s.powered⟩ i = true → ∃ t, exec i s = .next t ∧ t.Running) ∧
  (∀ s : State, s.Running → s.pending = [] → ∃ t, step s = .next t ∧ t.Running) ∧
  (∀ s : State, s.Running → (∀ t, step s ≠ .next t) →
    ∃ w rest r, s.pending = w :: rest ∧ decode ⟨s.cfg, s.state, s.powered⟩ w = .error r)

/-- R97: RESULT is written by exactly one kind of step, the one that ticks from COMPUTE, in both variants; that step
stores the pipeline output of the registers as it finds them, and every other step leaves RESULT. The tick of a
command word samples its own pattern (log entry 7), which has no part in the value (when RESULT commits is the
spec's decision D13, log entry 15; that MODE has no part in the value its decision D10, log entry 8; an unscheduled
step is a tick, log entry 1). It also rests on the spec's decisions D14, the RESET state clears nothing but the
flags (log entry 13); D9, RESET is looked at in IDLE only and cancels nothing (log entry 13). -/
def Obligations.ResultIsWrittenOnlyByTheTickFromCompute : Prop :=
  ∀ s t : State, s.Running → step s = .next t →
    t.result =
      if s.state = .compute ∧ ∀ w ∈ s.pending.head?, kindOf w ≠ kindRead ∧ kindOf w ≠ kindWrite then
        pipelineOut s.cfg s.inputs s.weights s.bias
      else s.result

/-- R22: who writes what. INPUTS, WEIGHTS and BIAS change only by a host write; RESULT and the control state never
by a host access; CONTROL bits 7:1 only by the host (a write, or a command it issues, log entry 7, DEDUCED); CONTROL
bit 0 is 0 after every step that is a tick, and a read leaves CONTROL as it is; no step changes the configuration
(R4) or powers the engine off. That every tick clears bit 0 is the spec's decision D8 (log entry 14); that an
unscheduled step is a tick is log entry 1. It also rests on the spec's decision D14, the RESET state clears nothing
but the flags (log entry 13). -/
def Obligations.EachPieceOfStateHasItsWriters : Prop :=
  ∀ s t : State, s.Running → step s = .next t →
    let kind := s.pending.head?.map kindOf
    (kind ≠ some kindWrite → t.inputs = s.inputs ∧ t.weights = s.weights ∧ t.bias = s.bias) ∧
    (kind = some kindRead ∨ kind = some kindWrite → t.result = s.result ∧ t.state = s.state) ∧
    (kind ≠ some kindWrite → kind ≠ some kindCommand → t.control.extractLsb' 1 7 = s.control.extractLsb' 1 7) ∧
    (kind ≠ some kindRead → kind ≠ some kindWrite → t.control.getLsbD 0 = false) ∧
    (kind = some kindRead → t.control = s.control) ∧
    t.cfg = s.cfg ∧ t.powered = true

/-- MODE and CONTROL[7:3] are stored and have no effect (R104, R54 (a), (b); the spec's decisions D10 and D11, log
entry 8): two running engines that differ only there take steps that differ only there, and, if the step
is a read of CONTROL, in what it returns (CONTROL as register number 0 is the spec's decision D2, log entry 16). -/
def Obligations.ModeAndUnnamedControlBitsHaveNoEffect : Prop :=
  ∀ (s t : State) (c : Flags8), s.Running → c.extractLsb' 0 2 = s.control.extractLsb' 0 2 → step s = .next t →
    ∃ c' o, step { s with control := c } = .next { t with control := c', readOut := o } ∧
      c'.extractLsb' 0 2 = t.control.extractLsb' 0 2 ∧
      ((∀ w ∈ s.pending.head?, ¬ (kindOf w = kindRead ∧ numberOf w = 0)) → o = t.readOut)

/-- COMPUTE is entered only from IDLE, by a tick that samples START (R105, R107): a command word whose pattern has
START, a scheduled tick or an unscheduled step with START in CONTROL. No host access enters it, and an engine that is
not in IDLE begins no operation. That a START outside IDLE is dropped is the spec's decision D8 (log entry 14); that a
command word is itself the tick that samples its pattern is the model's reading (log entry 7, DEDUCED). That an
unscheduled step is a tick is log entry 1, the kind of a step word log entry 2. -/
def Obligations.ComputeIsEnteredOnlyFromIdleByStart : Prop :=
  ∀ s t : State, s.Running → step s = .next t → t.state = .compute → s.state ≠ .compute →
    s.state = .idle ∧
      ((s.pending.head?.map kindOf = some kindCommand ∧ ∃ w ∈ s.pending.head?, (numberOf w).getLsbD 0 = true) ∨
        ((∀ w ∈ s.pending.head?, kindOf w = kindTick) ∧ s.control.getLsbD 0 = true))

/-- R39, R97: any number of host accesses between two ticks leaves the control state, RESULT and the configuration
as they are, completes, and leaves the rest of the schedule to run (the spec's decisions
D6 and D7, log entry 18, and D13, log entry 15; the schedule as a list, log entry 1). -/
def Obligations.HostAccessesBetweenTicksNeverMoveTheEngine : Prop :=
  ∀ (ws rest : List StepWord) (s : State), s.Running → s.pending = ws ++ rest →
    (∀ w ∈ ws, kindOf w = kindWrite ∨ (kindOf w = kindRead ∧ dataOf w = 0)) →
    ∃ t, runSteps ws.length s = .next t ∧ t.Running ∧ t.pending = rest ∧ t.state = s.state ∧
      t.result = s.result ∧ t.cfg = s.cfg

/-! ### Register file access -/

/-- R60, the pseudocode of `BusRead(a)`: the RD row of the register number `a` answers what its case says, and
nothing the hardware holds changes (the numbers: the spec's decision D2, log entry 16; zero-extension: its decision
D4, log entry 17; the unmapped answer is a free value, its decision D5, log entry 5). It also rests on the spec's
decisions D12, STATUS is a function of the control state (log entry 15); D15, READY and BUSY of the minimal variant
(log entry 12); D11, STATUS[7:3] are 0 (log entry 15). -/
def Obligations.BusReadAnswersTheAddressedRegister : Prop :=
  ∀ (s : State) (a : RegNum),
    let m := s.cfg.operandRegs
    let out := exec (decodeRead m a) s
    (a.toNat = 0x00 → out = .next { s with readOut := some (s.control.setWidth 32) }) ∧
    (a.toNat = 0x01 → out = .next { s with readOut := some ((status s.cfg.fsm s.state).setWidth 32) }) ∧
    (a.toNat = 0x02 → out = .next { s with readOut := some s.bias }) ∧
    (a.toNat = 0x03 → out = .next { s with readOut := some s.result }) ∧
    (∀ k, k < m → k < 64 → a.toNat = 0x40 + k → out = .next { s with readOut := some (s.inputs.getD k 0) }) ∧
    (∀ k, k < m → k < 64 → a.toNat = 0x80 + k → out = .next { s with readOut := some (s.weights.getD k 0) }) ∧
    ((0x04 ≤ a.toNat ∧ a.toNat < 0x40) ∨ (0x40 + m ≤ a.toNat ∧ a.toNat < 0x80) ∨
        (0x80 + m ≤ a.toNat ∧ a.toNat < 0xC0) ∨ 0xC0 ≤ a.toNat →
      out = .next { s with readOut := some (Config.draw32 s.draws), draws := s.draws + 1 })

/-- R61, the pseudocode of `BusWrite(a, w)`: the WR row of the register number `a` changes the addressed register as
its case says and nothing else. The register numbers are the spec's decision D2 (log entry 16), that a narrow
register keeps the low bits of the word its decision D4 (log entry 17). It also rests on the spec's decision D7, a
write changes the register at once (log entry 18). -/
def Obligations.BusWriteChangesOnlyTheAddressedRegister : Prop :=
  ∀ (s : State) (a : RegNum) (w : Word),
    let m := s.cfg.operandRegs
    let out := exec (decodeWrite m a w) s
    (a.toNat = 0x00 → out = .next { s with control := w.setWidth 8 }) ∧
    (a.toNat = 0x02 → out = .next { s with bias := BitVec.ofNat 32 (w.toNat % 2 ^ s.cfg.biasWidth) }) ∧
    (∀ k, k < m → k < 64 → a.toNat = 0x40 + k → out = .next { s with inputs := s.inputs.set k w }) ∧
    (∀ k, k < m → k < 64 → a.toNat = 0x80 + k → out = .next { s with weights := s.weights.set k w }) ∧
    (a.toNat = 0x01 ∨ a.toNat = 0x03 → out = .next s) ∧
    ((0x04 ≤ a.toNat ∧ a.toNat < 0x40) ∨ (0x40 + m ≤ a.toNat ∧ a.toNat < 0x80) ∨
        (0x80 + m ≤ a.toNat ∧ a.toNat < 0xC0) ∨ 0xC0 ≤ a.toNat →
      out = .next s)

/-- R62: a read of CONTROL returns the eight stored bits, zeros above; a write stores `w[7:0]` whole, drops the rest
and changes neither the control state nor STATUS; of two writes the last wins, so a START unsampled is cancelled by
writing it 0 and written twice is as once (decisions D4, log entry 17, D8, log entry 14, D11, log entry 8). It also
rests on the spec's decisions D12, STATUS is a function of the control state (log entry 15); D7, a write changes the
register at once (log entry 18). -/
def Obligations.ControlIsReadAndWrittenWhole : Prop :=
  (∀ s, exec .rdControl s = .next { s with readOut := some (s.control.setWidth 32) }) ∧
  (∀ s w, exec (.wrControl w) s = .next { s with control := w.setWidth 8 }) ∧
  (∀ s w₁ w₂, exec (.wrControl w₂) { s with control := w₁ } = exec (.wrControl w₂) s)

/-- R63: a read of STATUS returns the function of the control state, bits 31:3 zero, and clears nothing; a write of
STATUS does nothing, for any word. It rests on the spec's decisions D4, zeros above a narrow register (log entry
17); D12, STATUS is a function of the control state (log entry 15); D11, STATUS[7:3] are 0 (log entry 15); D15,
READY and BUSY of the minimal variant (log entry 12). -/
def Obligations.StatusReadsTheControlStateAndIgnoresWrites : Prop :=
  (∀ s, exec .rdStatus s = .next { s with readOut := some ((status s.cfg.fsm s.state).setWidth 32) }) ∧
  (∀ f st (j : Nat), 3 ≤ j → ((status f st).setWidth 32).getLsbD j = false) ∧
  (∀ s w, exec (.wrStatus w) s = .next s)

/-- R64: INPUTS[k], `k < M`. A read returns the 32 stored bits and a write stores all 32; the write sets the lanes
`k*K` to `k*K + K - 1` and no other; a write in COMPUTE is allowed and the coming commit uses it. The last clause,
RESULT after the next unscheduled step, is R97's: that RESULT is loaded by the tick that leaves COMPUTE is the
spec's decision D13 (log entry 15), that MODE has no part in the value its decision D10 (log entry 8), and that an
unscheduled step is a tick is log entry 1. It also rests on the spec's decisions D9, RESET is looked at in IDLE only
and cancels nothing (log entry 13); D7, a write changes the register at once (log entry 18). -/
def Obligations.InputsRegisterIsReadAndWrittenWhole : Prop :=
  ∀ (s : State) (k : BitVec 6) (w : Word), s.Running → k.toNat < s.cfg.operandRegs →
    exec (.rdInputs k) s = .next { s with readOut := some (s.inputs.getD k.toNat 0) } ∧
    exec (.wrInputs k w) s = .next { s with inputs := s.inputs.set k.toNat w } ∧
    (∀ j, (s.inputs.set k.toNat w).getD j 0 = if j = k.toNat then w else s.inputs.getD j 0) ∧
    (s.cfg.kind = .vector → ∀ i,
      lane s.cfg (s.inputs.set k.toNat w) i =
        if i / s.cfg.lanesPerReg = k.toNat then unpackLane w i s.cfg.w else lane s.cfg s.inputs i) ∧
    (s.state = .compute → s.pending = [] →
      ∃ t, step { s with inputs := s.inputs.set k.toNat w } = .next t ∧
        t.result = pipelineOut s.cfg (s.inputs.set k.toNat w) s.weights s.bias)

/-- R65: WEIGHTS[k] behaves as INPUTS[k] does (R64): read whole, written whole, a write sets its lanes and no other,
and the coming commit uses a write in COMPUTE. The last clause, RESULT after the next unscheduled step, is R97's:
that RESULT is loaded by the tick that leaves COMPUTE is the spec's decision D13 (log entry 15), that MODE has no
part in the value its decision D10 (log entry 8), and that an unscheduled step is a tick is log entry 1. It also
rests on the spec's decisions D9, RESET is looked at in IDLE only and cancels nothing (log entry 13); D7, a write
changes the register at once (log entry 18). -/
def Obligations.WeightsRegisterIsReadAndWrittenWhole : Prop :=
  ∀ (s : State) (k : BitVec 6) (w : Word), s.Running → k.toNat < s.cfg.operandRegs →
    exec (.rdWeights k) s = .next { s with readOut := some (s.weights.getD k.toNat 0) } ∧
    exec (.wrWeights k w) s = .next { s with weights := s.weights.set k.toNat w } ∧
    (∀ j, (s.weights.set k.toNat w).getD j 0 = if j = k.toNat then w else s.weights.getD j 0) ∧
    (s.cfg.kind = .vector → ∀ i,
      lane s.cfg (s.weights.set k.toNat w) i =
        if i / s.cfg.lanesPerReg = k.toNat then unpackLane w i s.cfg.w else lane s.cfg s.weights i) ∧
    (s.state = .compute → s.pending = [] →
      ∃ t, step { s with weights := s.weights.set k.toNat w } = .next t ∧
        t.result = pipelineOut s.cfg s.inputs (s.weights.set k.toNat w) s.bias)

/-- R66: a read of BIAS returns the `B` stored bits, zeros above, not sign-extended; a write stores `w[B-1:0]`; the
value read by the pipeline, `sint_B` of the stored bits, is the written value wrapped into the signed `B`-bit range;
and that value is what the vector pipeline adds (decisions D4, log entry 17, and D20, log entry 21). It also rests
on the spec's decision D7, a write changes the register at once (log entry 18). -/
def Obligations.BiasKeepsItsLowBits : Prop :=
  ∀ (s : State) (w : Word), s.Wf →
    let stored : Word := BitVec.ofNat 32 (w.toNat % 2 ^ s.cfg.biasWidth)
    exec .rdBias s = .next { s with readOut := some s.bias } ∧ s.bias.toNat < 2 ^ s.cfg.biasWidth ∧
    exec (.wrBias w) s = .next { s with bias := stored } ∧
    FitsSigned s.cfg.biasWidth (sint s.cfg.biasWidth stored.toNat) ∧
    (sint s.cfg.biasWidth stored.toNat - w.toInt) % 2 ^ s.cfg.biasWidth = 0 ∧
    vdotFinal s.cfg s.inputs s.weights stored =
      macSum s.cfg s.inputs s.weights + sint s.cfg.biasWidth stored.toNat

/-- R34: a write keeps the low bits only, so two words that agree in the low `B` bits are one write of BIAS; a
negative bias written as its `B`-bit pattern or as its 32-bit sign-extension stores the same bits. Two words that
agree in the low 8 bits are one write of CONTROL (decision D4, log entry 17). -/
def Obligations.NarrowRegisterWritesStoreTheLowBits : Prop :=
  (∀ (s : State) (w₁ w₂ : Word), w₁.toNat % 2 ^ s.cfg.biasWidth = w₂.toNat % 2 ^ s.cfg.biasWidth →
    exec (.wrBias w₁) s = exec (.wrBias w₂) s) ∧
  (∀ (s : State) (p : Nat), s.cfg.valid = true → p < 2 ^ s.cfg.biasWidth →
    exec (.wrBias (BitVec.ofInt 32 (sint s.cfg.biasWidth p))) s = .next { s with bias := BitVec.ofNat 32 p } ∧
    exec (.wrBias (BitVec.ofNat 32 p)) s = .next { s with bias := BitVec.ofNat 32 p }) ∧
  (∀ (s : State) (w₁ w₂ : Word), w₁.toNat % 256 = w₂.toNat % 256 →
    exec (.wrControl w₁) s = exec (.wrControl w₂) s)

/-- R67: a read of RESULT returns the `R` bits last committed, zeros above, and clears nothing; it returns the same
until the next commit, whatever the control state and through the RESET state; a write of RESULT does nothing.
So no step outside COMPUTE changes RESULT, nor does a host access in COMPUTE (R97). Zero-extension is the spec's
decision D4 (log entry 17), that the RESET state keeps RESULT its decision D14 (log entry 13), that only the tick from
COMPUTE loads it, so that the FINISH tick keeps it, its decision D13 (log entry 15). -/
def Obligations.ResultIsReadOnlyAndStableBetweenCommits : Prop :=
  (∀ s, exec .rdResult s = .next { s with readOut := some s.result }) ∧
  (∀ s : State, s.Wf → s.result.toNat < 2 ^ s.cfg.resultWidth) ∧
  (∀ s t : State, s.Running →
    (s.state ≠ .compute ∨ ∃ w ∈ s.pending.head?, kindOf w = kindRead ∨ kindOf w = kindWrite) →
    step s = .next t → t.result = s.result) ∧
  (∀ s w, exec (.wrResult w) s = .next s)

/-- R68, row by row: a read of an unmapped number answers the next `draw_32()`, fresh at each read, and changes
nothing the hardware holds; a write of one does nothing; the answer is a free value (decision D5, log entry 5). The
last two clauses, that an INPUTS or WEIGHTS row called with `k >= M` acts as its unmapped number does, are the
model's reading (log entry 29, DEDUCED). It also rests on the spec's decision D2, the register numbers (log entry
16). -/
def Obligations.UnmappedNumbersAnswerAFreeValueAndIgnoreWrites : Prop :=
  ∀ (s : State) (w : Word),
    let drawn : State := { s with readOut := some (Config.draw32 s.draws), draws := s.draws + 1 }
    (∀ k, exec (.rdUnmapped04 k) s = .next drawn ∧ exec (.wrUnmapped04 k w) s = .next s) ∧
    (∀ k, exec (.rdUnmapped08 k) s = .next drawn ∧ exec (.wrUnmapped08 k w) s = .next s) ∧
    (∀ k, exec (.rdUnmapped10 k) s = .next drawn ∧ exec (.wrUnmapped10 k w) s = .next s) ∧
    (∀ k, exec (.rdUnmapped20 k) s = .next drawn ∧ exec (.wrUnmapped20 k w) s = .next s) ∧
    (∀ k, exec (.rdUnmappedC0 k) s = .next drawn ∧ exec (.wrUnmappedC0 k w) s = .next s) ∧
    (∀ g k, s.cfg.operandRegs ≤ k.toNat →
      exec (.rdUnmappedOperand g k) s = .next drawn ∧ exec (.wrUnmappedOperand g k w) s = .next s) ∧
    (∀ k, s.cfg.operandRegs ≤ k.toNat → exec (.rdInputs k) s = .next drawn ∧ exec (.wrInputs k w) s = .next s) ∧
    (∀ k, s.cfg.operandRegs ≤ k.toNat → exec (.rdWeights k) s = .next drawn ∧ exec (.wrWeights k w) s = .next s)

/-- R38: no read has a side effect. Whatever register number is read, the hardware's state is as before, and reading
a mapped number again at once answers the same (the draw counter is the model's, log entry 5). -/
def Obligations.ReadsHaveNoSideEffect : Prop :=
  ∀ (s : State) (a : RegNum), ∃ t, exec (decodeRead s.cfg.operandRegs a) s = .next t ∧
    { t with readOut := s.readOut, draws := s.draws } = s ∧
    (t.draws = s.draws → exec (decodeRead t.cfg.operandRegs a) t = .next t)

/-! ### Lanes and pipelines -/

/-- R69: `unpack_lane` sign-extends the bit slice of lane `i mod K`, for every lane width that divides 32; its
value is in the signed `w`-bit range. -/
def Obligations.UnpackLaneSignExtendsItsSlice : Prop :=
  ∀ (rv : Word) (i w : Nat), 1 ≤ w → 32 % w = 0 →
    unpackLane rv i w = (rv.extractLsb' (i % (32 / w) * w) w).toInt ∧ FitsSigned w (unpackLane rv i w)

/-- R70: word `j` of `pack_lanes(v, w)` is the sum of the wrapped values of its lanes, each at its place; there are
`ceil(n / K)` words (wrapping and the zeros above: decision D21, log entry 22). -/
def Obligations.PackLanesPlacesEachWrappedValue : Prop :=
  ∀ (v : List Int) (w : Nat), 1 ≤ w → 32 % w = 0 →
    (packLanes v w).length = (v.length + 32 / w - 1) / (32 / w) ∧
    ∀ j, j < (packLanes v w).length →
      ((packLanes v w).getD j 0).toNat =
        ∑ i ∈ (Finset.range v.length).filter (fun i => i / (32 / w) = j),
          (v.getD i 0 % 2 ^ w).toNat * 2 ^ (i % (32 / w) * w)

/-- R71, both ways: unpacking what was packed gives every value of the signed `w`-bit range back, the most negative
one included, and packing the unpacked lanes of a word gives the word. -/
def Obligations.PackAndUnpackAreInverse : Prop :=
  ∀ w : Nat, 1 ≤ w → 32 % w = 0 →
    (∀ v : List Int, (∀ z ∈ v, FitsSigned w z) → ∀ i, i < v.length →
      unpackLane ((packLanes v w).getD (i / (32 / w)) 0) i w = v.getD i 0) ∧
    (∀ p : Word, packLanes ((List.range (32 / w)).map fun i => unpackLane p i w) w = [p])

/-- R75: SMAC. In COMPUTE of a scalar engine of either variant the operation completes; RESULT takes the low 32 bits
of the exact, arithmetically shifted product plus the bias. The value is R75's. The rest of the step is not: that
SMAC is run as the tick that commits it is the model's reading (log entry 7, DEDUCED), that RESULT is loaded by this
tick is the spec's decision D13 (log entry 15), that MODE has no part in the value its decision D10 (log entry 8),
and that the tick clears START its decision D8 (log entry 14). It also rests on the spec's decisions D9, RESET is
looked at in IDLE only and cancels nothing (log entry 13); D28, the scalar widths (log entry 30); D29, the 16
fraction bits (log entry 30). -/
def Obligations.SmacCommitsTheScaledProductPlusBias : Prop :=
  ∀ s : State, s.Running → s.cfg.kind = .scalar → s.state = .compute →
    exec .smac s = .next { s with
      result := BitVec.ofInt 32
        ((s.inputs.getD 0 0).toInt * (s.weights.getD 0 0).toInt / 65536 + s.bias.toInt)
      state := if s.cfg.fsm = .full then .finish else .idle
      control := s.control &&& 0xFE }

/-- R76 (a) to (h), the integer laws of SMAC. It rests on the spec's decision D29, the 16 fraction bits (log entry
30). -/
def Obligations.SmacObeysItsIntegerLaws : Prop :=
  ∀ a b c : Word,
    let product := a.toInt * b.toInt
    let scaled := product / 2 ^ 16
    (|product| ≤ 2 ^ 62 ∧ (product = 2 ^ 62 → a.toInt = -2 ^ 31 ∧ b.toInt = -2 ^ 31)) ∧
    (scaled * 2 ^ 16 ≤ product ∧ product < (scaled + 1) * 2 ^ 16) ∧
    (|scaled| ≤ 2 ^ 46 ∧ |c.toInt| ≤ 2 ^ 31) ∧
    ((smac a b c).toInt = scaled + c.toInt ∨ scaled + c.toInt < -2 ^ 31 ∨ 2 ^ 31 ≤ scaled + c.toInt) ∧
    ((smac a b c).toInt - (scaled + c.toInt)) % 2 ^ 32 = 0 ∧
    smac a b c = smac b a c ∧
    (b = 0x00010000 → scaled = a.toInt) ∧
    (a = 0 ∨ b = 0 → smac a b c = c) ∧
    smac a b c = BitVec.ofInt 32 ((product + c.toInt * 2 ^ 16) / 2 ^ 16)

/-- R77, R135: with all three operands at most `2^23` in magnitude SMAC does not wrap. It rests on the spec's
decision D29, the 16 fraction bits (log entry 30). -/
def Obligations.SmacIsExactInsideTheDocumentedRange : Prop :=
  ∀ a b c : Word, |a.toInt| ≤ 2 ^ 23 → |b.toInt| ≤ 2 ^ 23 → |c.toInt| ≤ 2 ^ 23 →
    ScalarExact a b c ∧ |a.toInt * b.toInt / 2 ^ 16| ≤ 2 ^ 30 ∧
    |a.toInt * b.toInt / 2 ^ 16 + c.toInt| ≤ 2 ^ 30 + 2 ^ 23 ∧
    (smac a b c).toInt = a.toInt * b.toInt / 2 ^ 16 + c.toInt

/-- R81: a lane product is exact and in `[-2^(2W-2) + 2^(W-1), 2^(2W-2)]`; only the two most negative lanes reach
the maximum; it fits `2W` signed bits. -/
def Obligations.LaneProductsAreExactAndBounded : Prop :=
  ∀ (c : Config) (xs ys : List Word) (i : Nat), c.valid = true → c.kind = .vector →
    let x := lane c xs i
    let y := lane c ys i
    (i < c.n → (laneProducts c xs ys).getD i 0 = x * y) ∧ (laneProducts c xs ys).length = c.n ∧
    -2 ^ (2 * c.w - 2) + 2 ^ (c.w - 1) ≤ x * y ∧ x * y ≤ 2 ^ (2 * c.w - 2) ∧
    (x * y = 2 ^ (2 * c.w - 2) → x = -2 ^ (c.w - 1) ∧ y = -2 ^ (c.w - 1)) ∧
    FitsSigned c.productWidth (x * y)

/-- R82: a level of the reduction tree pairs `(2j, 2j+1)`, carries an unpaired last element through unchanged and
halves the count rounding up; the tree goes level by level until one value remains, after `ceil(log2 N)` levels
(pass-through is the spec's decision D18, log entry 19). -/
def Obligations.ReductionTreePairsAdjacentElements : Prop :=
  (∀ p : List Int, (pairLevel p).length = (p.length + 1) / 2 ∧
    ∀ j, j < (pairLevel p).length →
      (pairLevel p).getD j 0 = if 2 * j + 1 < p.length then p.getD (2 * j) 0 + p.getD (2 * j + 1) 0
        else p.getD (2 * j) 0) ∧
  (∀ z : Int, treeReduce [z] = z) ∧
  (∀ p : List Int, 1 < p.length → treeReduce p = treeReduce (pairLevel p)) ∧
  (∀ p : List Int, p ≠ [] → (pairLevel^[ceilLog2 p.length] p).length = 1 ∧
    ∀ e, e < ceilLog2 p.length → 1 < (pairLevel^[e] p).length)

/-- R83: the tree is exact. It gives the plain sum for every list of products, and a value at level `t` lies within
`2^t` times the bound of one product; `mac_sum` is the plain dot product and fits `A = 2W + ceil(log2 N)`
signed bits. -/
def Obligations.ReductionTreeIsThePlainSum : Prop :=
  (∀ p : List Int, treeReduce p = p.sum) ∧
  (∀ (c : Config) (xs ys : List Word), macSum c xs ys = ∑ i ∈ Finset.range c.n, lane c xs i * lane c ys i) ∧
  (∀ (c : Config) (xs ys : List Word) (t : Nat), c.valid = true → c.kind = .vector →
    ∀ z ∈ pairLevel^[t] (laneProducts c xs ys), -(2 ^ t * 2 ^ (2 * c.w - 2)) ≤ z ∧ z ≤ 2 ^ t * 2 ^ (2 * c.w - 2)) ∧
  (∀ (c : Config) (xs ys : List Word), c.valid = true → c.kind = .vector → FitsSigned c.accWidth (macSum c xs ys))

/-- R84: `final` is the exact sum of `mac_sum` and the sign-extended bias, lies in its range and fits `F` signed
bits; held in any `h >= SHIFT + R` bits instead it gives the same result (decision D20, log entry 21). -/
def Obligations.FinalFitsItsWidthAndHighBitsCannotMatter : Prop :=
  ∀ (c : Config) (xs ys : List Word) (bias : Word), c.valid = true → c.kind = .vector →
    bias.toNat < 2 ^ c.b →
    vdotFinal c xs ys bias = macSum c xs ys + (bias.setWidth c.b).toInt ∧
    -2 ^ (c.accWidth - 1) - 2 ^ (c.b - 1) ≤ vdotFinal c xs ys bias ∧
    vdotFinal c xs ys bias ≤ 2 ^ (c.accWidth - 1) + 2 ^ (c.b - 1) - 1 ∧
    FitsSigned c.finalWidth (vdotFinal c xs ys bias) ∧
    ∀ h, 1 ≤ h → c.shift + c.r ≤ h → narrow c (sint h (wrapNat h (vdotFinal c xs ys bias))) =
      narrow c (vdotFinal c xs ys bias)

/-- R85: the narrowing takes bits `SHIFT + R - 1 : SHIFT` of `final`, an arithmetic shift that floors, then wraps
without saturation; it is exact in range, and with `SHIFT = 0` and `R >= F` the result is `final` itself (decisions
D17, D20, log entry 21). -/
def Obligations.NarrowingTakesItsBitSlice : Prop :=
  ∀ (c : Config) (z : Int), c.valid = true → c.kind = .vector →
    (∀ j, (narrow c z).getLsbD j = (decide (j < c.r) && decide (z / 2 ^ (c.shift + j) % 2 = 1))) ∧
    (asr z c.shift * 2 ^ c.shift ≤ z ∧ z < (asr z c.shift + 1) * 2 ^ c.shift) ∧
    (sint c.r (narrow c z).toNat - asr z c.shift) % 2 ^ c.r = 0 ∧
    (FitsSigned c.r (asr z c.shift) → sint c.r (narrow c z).toNat = asr z c.shift) ∧
    (c.shift = 0 → c.finalWidth ≤ c.r → FitsSigned c.finalWidth z → sint c.r (narrow c z).toNat = z)

/-- R80: VDOT. In COMPUTE of a vector engine of either variant the operation completes; RESULT takes the narrowed
plain dot product of the lanes plus the sign-extended bias, the lanes being bit slices of the operand registers. The
value is R80's, with the bias extension and the narrowing of the spec's decision D20 (log entry 21); that lane
positions at or above `N` have no part in it is its decision D24 (log entry 23), and that MODE has none its decision
D10 (log entry 8). That VDOT is run as the tick that commits it is the model's reading (log entry 7, DEDUCED), that
RESULT is loaded by this tick is the spec's decision D13 (log entry 15), and that the tick clears START is its
decision D8 (log entry 14). It also rests on the spec's decision D9, RESET is looked at in IDLE only and cancels
nothing (log entry 13). -/
def Obligations.VdotCommitsTheNarrowedDotProduct : Prop :=
  ∀ s : State, s.Running → s.cfg.kind = .vector → s.state = .compute →
    let slice (regs : List Word) (i : Nat) : Int :=
      ((regs.getD (i / (32 / s.cfg.w)) 0).extractLsb' (i % (32 / s.cfg.w) * s.cfg.w) s.cfg.w).toInt
    exec .vdot s = .next { s with
      result := (BitVec.ofInt s.cfg.r
        ((∑ i ∈ Finset.range s.cfg.n, slice s.inputs i * slice s.weights i + (s.bias.setWidth s.cfg.b).toInt) /
          2 ^ s.cfg.shift)).setWidth 32
      state := if s.cfg.fsm = .full then .finish else .idle
      control := s.control &&& 0xFE }

/-- R87, R18: VDOT reads the lanes below `N` and BIAS and nothing else. Two engines of one configuration that agree
there commit the same RESULT, whatever their CONTROL, RESULT and unused lane positions hold. That no lane position
at or above `N` is read is R18's, the spec's decision D24 (log entry 23); that MODE, and so CONTROL as a whole, has
no part in what is committed is its decision D10, and that bits 7:3 have none its decision D11 (log entry 8 for
both). That VDOT is run as the tick that commits it is the model's reading (log entry 7, DEDUCED), and that RESULT
is loaded by this tick is the spec's decision D13 (log entry 15). It also rests on the spec's decision D9, RESET is
looked at in IDLE only and cancels nothing (log entry 13). -/
def Obligations.VdotReadsOnlyItsLanesAndBias : Prop :=
  ∀ s s' t t' : State, s.cfg = s'.cfg → s.bias = s'.bias →
    (∀ i, i < s.cfg.n → lane s.cfg s.inputs i = lane s.cfg s'.inputs i ∧
      lane s.cfg s.weights i = lane s.cfg s'.weights i) →
    exec .vdot s = .next t → exec .vdot s' = .next t' → t.result = t'.result

/-! ### Control state machine -/

/-- R96 and R101, the tables of STATUS: READY bit 0, DONE bit 1, BUSY bit 2; in the full variant at most one flag is
1 (R12, R13, R48; decision D12, log entry 15; READY and BUSY of the minimal variant are the spec's decision D15, log
entry 12). It also rests on the spec's decision D11, STATUS[7:3] are 0 (log entry 15). -/
def Obligations.StatusFollowsItsTable : Prop :=
  status .full .idle = 0x01 ∧ status .full .compute = 0x04 ∧ status .full .finish = 0x02 ∧
  status .full .reset = 0x00 ∧ status .minimal .idle = 0x03 ∧ status .minimal .compute = 0x04 ∧
  (∀ st, validPulse st = (status .full st).getLsbD 2) ∧
  (∀ st, (status .minimal st).getLsbD 1 = decide (st = .idle)) ∧
  (∀ f st, ready f st = (status f st).getLsbD 0 ∧ done f st = (status f st).getLsbD 1 ∧
    busy f st = (status f st).getLsbD 2)

/-- R92: TICK in IDLE, full variant. START has priority and leaves a RESET bit set for the next time; MODE and bits
7:3 have no influence; nothing but the control state and CONTROL bit 0 changes; the flags are those of the new
state. That the tick leaves CONTROL with bit 0 cleared, in every case, is R91's, the spec's decision D8 (log entry
14); that RESET is looked at here, below START, is its decision D9 (log entry 13); that MODE and bits 7:3 have no
influence is its decisions D10 and D11 (log entry 8). It also rests on the spec's decision D14, the RESET state
clears nothing but the flags (log entry 13). -/
def Obligations.TickFullIdleFollowsTheCommand : Prop :=
  ∀ s : State, s.cfg.fsm = .full → s.state = .idle →
    exec .tickFullIdle s = .next { s with
      state := if s.control.getLsbD 0 then .compute else if s.control.getLsbD 1 then .reset else .idle
      control := s.control &&& 0xFE }

/-- R93: TICK in COMPUTE, full variant: unconditionally FINISH, RESULT takes the pipeline output, a START is dropped
and a RESET stays pending; then READY = 0, DONE = 1, BUSY = 0. That the tick clears START is R91's, the spec's decision
D8 (log entry 14); that RESULT is loaded by this tick, with no second latch, is R97's, its decision D13 (log entry
15); that MODE has no part in the value is its decision D10 (log entry 8); that RESET is not looked at is its decision
D9 (log entry 13) and the STATUS value its decision D12 (log entry 15). -/
def Obligations.TickFullComputeCommitsAndFinishes : Prop :=
  ∀ s : State, s.cfg.fsm = .full → s.state = .compute →
    exec .tickFullCompute s = .next { s with
      state := .finish, control := s.control &&& 0xFE
      result := pipelineOut s.cfg s.inputs s.weights s.bias } ∧
    status .full .finish = 0x02

/-- R94, R95: TICK in FINISH and in RESET, full variant: unconditionally IDLE, whatever the command; RESULT, the
operand registers and CONTROL but for START are unchanged; then READY = 1 alone. That the RESET state clears nothing
but flags is the spec's decision D14 (log entry 13), that the FINISH tick leaves RESULT, loaded already, is its
decision D13 (log entry 15), and that both ticks clear START is its decision D8 (log entry 14). It also rests on the
spec's decisions D9, RESET is looked at in IDLE only and cancels nothing (log entry 13); D12, STATUS is a function
of the control state (log entry 15). -/
def Obligations.TickFullFinishAndResetReturnToIdle : Prop :=
  (∀ s : State, s.cfg.fsm = .full → s.state = .finish →
    exec .tickFullFinish s = .next { s with state := .idle, control := s.control &&& 0xFE }) ∧
  (∀ s : State, s.cfg.fsm = .full → s.state = .reset →
    exec .tickFullReset s = .next { s with state := .idle, control := s.control &&& 0xFE }) ∧
  status .full .idle = 0x01

/-- R99, R100: TICK of the minimal variant. In IDLE only START moves the engine and the RESET bit is stored and
ignored (the spec's decision D15, log entry 12); in COMPUTE RESULT is latched and IDLE entered on the same tick. That
both ticks clear bit 0 of CONTROL is R91's, the spec's decision D8 (log entry 14); that the tick from COMPUTE loads
RESULT from the registers as it finds them is R97's, its decision D13 (log entry 15); that MODE and bits 7:3 of CONTROL
have no part in either is its decisions D10 and D11 (log entry 8). -/
def Obligations.TickMinimalStartsLatchesAndReturns : Prop :=
  (∀ s : State, s.cfg.fsm = .minimal → s.state = .idle →
    exec .tickMinIdle s = .next { s with
      state := if s.control.getLsbD 0 then .compute else .idle, control := s.control &&& 0xFE }) ∧
  (∀ s : State, s.cfg.fsm = .minimal → s.state = .compute →
    exec .tickMinCompute s = .next { s with
      state := .idle, control := s.control &&& 0xFE
      result := pipelineOut s.cfg s.inputs s.weights s.bias })

/-- An engine step outside its variant and state, and a compute operation outside its pipeline or COMPUTE, is not a
step the machine can take (R45, opcode table "selected_by"): the model refuses it (log entry 9). -/
def Obligations.UnselectedRowsAreRefused : Prop :=
  ∀ s : State,
    (¬ (s.cfg.fsm = .full ∧ s.state = .idle) → exec .tickFullIdle s = .refused .notSelected) ∧
    (¬ (s.cfg.fsm = .full ∧ s.state = .compute) → exec .tickFullCompute s = .refused .notSelected) ∧
    (¬ (s.cfg.fsm = .full ∧ s.state = .finish) → exec .tickFullFinish s = .refused .notSelected) ∧
    (¬ (s.cfg.fsm = .full ∧ s.state = .reset) → exec .tickFullReset s = .refused .notSelected) ∧
    (¬ (s.cfg.fsm = .minimal ∧ s.state = .idle) → exec .tickMinIdle s = .refused .notSelected) ∧
    (¬ (s.cfg.fsm = .minimal ∧ s.state = .compute) → exec .tickMinCompute s = .refused .notSelected) ∧
    (¬ (s.cfg.kind = .scalar ∧ s.state = .compute) → exec .smac s = .refused .notSelected) ∧
    (¬ (s.cfg.kind = .vector ∧ s.state = .compute) → exec .vdot s = .refused .notSelected)

/-- R90, R91, R108: in every running engine the TICK row its variant and state select does what the pseudocode of
`Tick()` does, by the complete transition table; START is cleared and bits 7:1 kept in every case, so the tick after
it samples no START. It rests on the spec's decisions D8, every tick clears START (log entry 14), D13, the tick from
COMPUTE loads RESULT (log entry 15), D9, RESET is looked at in IDLE only (log entry 13), D15, the minimal variant
ignores it (log entry 12), and D10 and D11, MODE and bits 7:3 have no effect (log entry 8). It also rests on the
spec's decision D14, the RESET state clears nothing but the flags (log entry 13). -/
def Obligations.TickRowsFollowTheTransitionTable : Prop :=
  ∀ s : State, s.Running → ∃ i st, decodeTick s.cfg.fsm s.state = some i ∧
    exec i s = .next { s with
      state := st, control := s.control &&& 0xFE
      result := if s.state = .compute then pipelineOut s.cfg s.inputs s.weights s.bias else s.result } ∧
    (s.state = .idle → s.control.getLsbD 0 = true → st = .compute) ∧
    (s.state = .idle → s.control.getLsbD 0 = false → s.control.getLsbD 1 = true →
      st = if s.cfg.fsm = .full then .reset else .idle) ∧
    (s.state = .idle → s.control.getLsbD 0 = false → s.control.getLsbD 1 = false → st = .idle) ∧
    (s.state = .compute → st = if s.cfg.fsm = .full then .finish else .idle) ∧
    (s.state = .finish → st = .idle) ∧ (s.state = .reset → st = .idle) ∧
    (s.control &&& 0xFE).getLsbD 0 = false ∧ (s.control &&& 0xFE).extractLsb' 1 7 = s.control.extractLsb' 1 7

/-- One tick, three names: the command CONTROL holds, the TICK row, and in COMPUTE the compute operation, are the same
step of a running engine, and it is the model's `tick`. R45 lists them as separate kinds of operation, all taking
effect at a tick; that they are one step is the model's reading (log entry 7, DEDUCED). -/
def Obligations.CommandComputeAndTickRowsAreOneStep : Prop :=
  ∀ s : State, s.Running → ∃ i t, decodeTick s.cfg.fsm s.state = some i ∧ exec i s = .next t ∧ tick s = some t ∧
    exec (decodeCommand s.control) s = .next t ∧
    (s.state = .compute → exec (decodeCompute s.cfg.kind) s = .next t)

/-- R102: START, in both variants: sampled in IDLE it starts an operation and its bit is consumed, whatever MODE,
RESET and bits 7:3 are; the tick after it commits the pipeline. R102 gives the effect at the tick after a write; that
the command is one step, which puts its pattern in CONTROL and ticks, is the model's reading (log entry 7, DEDUCED).
How the bit is consumed is the spec's decision D8 (log entry 14), when RESULT commits its decision D13 (log entry 15),
that MODE and bits 7:3 have no effect its decisions D10 and D11 (log entry 8), that START wins over RESET its decision
D9 (log entry 13); that an unscheduled step is a tick is log entry 1. -/
def Obligations.StartBeginsAnOperationInIdle : Prop :=
  ∀ (s : State) (x : BitVec 5) (mode reset : BitVec 1), s.Running → s.state = .idle →
    exec (.start x mode reset) s = .next { s with state := .compute, control := x ++ mode ++ reset ++ 0#1 } ∧
    (s.pending = [] → ∃ t, step { s with state := .compute, control := x ++ mode ++ reset ++ 0#1 } = .next t ∧
      t.result = pipelineOut s.cfg s.inputs s.weights s.bias)

/-- R105: a START outside IDLE is consumed and does nothing: the step is the one of the same pattern without it, and
no START stays pending (the spec's decision D8, log entry 14). That a command is one step, which puts its pattern in
CONTROL and ticks, is the model's reading (log entry 7, DEDUCED). -/
def Obligations.SpuriousStartIsDropped : Prop :=
  ∀ (s : State) (x : BitVec 5) (mode : BitVec 1), s.Running → s.state ≠ .idle →
    ∃ t u, exec (.start x mode 0) s = .next t ∧ exec (.nop x mode) s = .next t ∧
      exec (.start x mode 1) s = .next u ∧ exec (.reset x mode) s = .next u ∧
      t.control.getLsbD 0 = false ∧ u.control.getLsbD 0 = false ∧ t.state ≠ .compute ∧ u.state ≠ .compute

/-- R103: RESET. Looked at only in IDLE of the full variant, where it leads to the RESET state and leaves its bit
set; elsewhere the state's own transition happens, an operation in flight commits, and the minimal variant ignores
it. Where RESET is looked at is the spec's decision D9 (log entry 13), that the minimal variant ignores it its
decision D15 (log entry 12), when RESULT commits its decision D13 (log entry 15), that MODE and bits 7:3 have no
effect its decisions D10 and D11 (log entry 8). That the command is one step, which puts its pattern in CONTROL and
ticks, is the model's reading (log entry 7, DEDUCED). It also rests on the spec's decision D14, the RESET state
clears nothing but the flags (log entry 13). -/
def Obligations.ResetCommandActsOnlyInIdleOfTheFullVariant : Prop :=
  ∀ (s : State) (x : BitVec 5) (mode : BitVec 1), s.Running →
    exec (.reset x mode) s = .next { s with
      control := x ++ mode ++ 0b10#2
      state := match s.cfg.fsm, s.state with
        | .full, .idle => .reset
        | .full, .compute => .finish
        | _, _ => .idle
      result := if s.state = .compute then pipelineOut s.cfg s.inputs s.weights s.bias else s.result }

/-- R104: NOP: the unconditional transition of the state, and IDLE stays. MODE and bits 7:3 are stored, come back in
CONTROL and have no effect (the spec's decisions D10, D11, log entry 8); when RESULT commits is its decision D13
(log entry 15). That the command is one step, which puts its pattern in CONTROL and ticks, is the model's reading
(log entry 7, DEDUCED). It also rests on the spec's decision D14, the RESET state clears nothing but the flags (log
entry 13). -/
def Obligations.NopFollowsTheUnconditionalTransition : Prop :=
  ∀ (s : State) (x : BitVec 5) (mode : BitVec 1), s.Running →
    exec (.nop x mode) s = .next { s with
      control := x ++ mode ++ 0b00#2
      state := match s.cfg.fsm, s.state with
        | .full, .compute => .finish
        | _, _ => .idle
      result := if s.state = .compute then pipelineOut s.cfg s.inputs s.weights s.bias else s.result }

/-- R106, R137: from IDLE a START sampled brings the engine back to IDLE after exactly three ticks in the full
variant, STATUS passing through 0x04, 0x02, 0x01, and after exactly two in the minimal, 0x04, 0x03; RESULT is
committed at tick 2 and keeps its value; operands are untouched. That RESULT commits at tick 2 is the spec's
decision D13 and the STATUS value of each state its decision D12 (log entry 15 for both), the minimal STATUS values
its decision D15 (log entry 12); that MODE has no part in the value its decision D10 (log entry 8); that with
nothing scheduled every step is a tick is log entry 1. It also rests on the spec's decisions D9, RESET is looked at
in IDLE only and cancels nothing (log entry 13); D11, STATUS[7:3] are 0 (log entry 15). -/
def Obligations.OperationTakesItsFixedNumberOfTicks : Prop :=
  ∀ s : State, s.Running → s.pending = [] → s.state = .idle → s.control.getLsbD 0 = true →
    ∃ t₁ t₂ t₃, runSteps 1 s = .next t₁ ∧ runSteps 2 s = .next t₂ ∧ runSteps 3 s = .next t₃ ∧
      t₁.result = s.result ∧ t₂.result = pipelineOut s.cfg s.inputs s.weights s.bias ∧ t₃.result = t₂.result ∧
      t₃.inputs = s.inputs ∧ t₃.weights = s.weights ∧ t₃.bias = s.bias ∧
      (s.cfg.fsm = .full → statusOf t₁ = 0x04 ∧ statusOf t₂ = 0x02 ∧ t₂.state = .finish ∧
        statusOf t₃ = 0x01 ∧ t₃.state = .idle) ∧
      (s.cfg.fsm = .minimal → statusOf t₁ = 0x04 ∧ statusOf t₂ = 0x03 ∧ t₂.state = .idle)

/-- R106: no state can be held. From any state of a running engine ticks bring it to IDLE within two, whatever
CONTROL holds, unless it is in IDLE already (with nothing scheduled every step is a tick, log entry 1). It rests on
the spec's decision D9, RESET is looked at in IDLE only and cancels nothing (log entry 13). -/
def Obligations.EngineIsBackInIdleWithinTwoTicks : Prop :=
  ∀ s : State, s.Running → s.pending = [] → s.state ≠ .idle →
    ∃ k t, 1 ≤ k ∧ k ≤ 2 ∧ runSteps k s = .next t ∧ t.state = .idle ∧ t.cfg = s.cfg

/-- R103, R133: while RESET stays set and START clear the full variant alternates IDLE and RESET, one tick each,
STATUS 0x01 and 0x00, for ever, and nothing else changes. That RESET is level-held is the spec's decision D9, that
the RESET state clears nothing but the flags its decision D14 (log entry 13 for both); that with nothing scheduled
every step is a tick is log entry 1. It also rests on the spec's decisions D10, MODE has no effect (log entry 8);
D11, CONTROL[7:3] have no effect (log entry 8); D12, STATUS is a function of the control state (log entry 15). -/
def Obligations.HeldResetAlternatesForEver : Prop :=
  ∀ (s : State) (k : Nat), s.Running → s.cfg.fsm = .full → s.pending = [] → s.state = .idle →
    s.control.getLsbD 0 = false → s.control.getLsbD 1 = true →
    runSteps (2 * k) s = .next s ∧ runSteps (2 * k + 1) s = .next { s with state := .reset } ∧
    statusOf s = 0x01 ∧ statusOf { s with state := .reset } = 0x00

/-- R97, R94, with R39: an operation's RESULT stays readable. After the commit, however many steps a schedule of
host accesses, ticks and commands makes, none of which writes or issues a START, RESULT is as committed. It rests on
the spec's decisions D13, when RESULT commits (log entry 15), D6 and D7, one order of atomic steps (log entry 18),
D8, START is consumed (log entry 14), and D2, CONTROL is register number 0 (log entry 16), and on the model's
schedule as a list (log entry 1) and command steps (log entry 7, DEDUCED). It also rests on the spec's decisions
D14, the RESET state clears nothing but the flags (log entry 13); D10, MODE has no effect (log entry 8); D11,
CONTROL[7:3] have no effect (log entry 8). -/
def Obligations.CommittedResultSurvivesUntilTheNextStart : Prop :=
  ∀ (k : Nat) (s t : State), s.Running → s.state ≠ .compute → s.control.getLsbD 0 = false →
    (∀ w ∈ s.pending, (kindOf w = kindCommand → (numberOf w).getLsbD 0 = false) ∧
      (kindOf w = kindWrite → numberOf w = 0 → (dataOf w).getLsbD 0 = false)) →
    runSteps k s = .next t → t.result = s.result ∧ t.state ≠ .compute

/-! ### Power-on, reset, configuration -/

/-- R125, R24: POWERON creates the state of an engine with a valid configuration: IDLE, CONTROL, the operand
registers, BIAS and RESULT zero (the zeros are the spec's decision D16, log entry 10), hence STATUS 0x01 or 0x03.
What the host has scheduled and read stays. It also rests on the spec's decisions D12, STATUS is a function of the
control state (log entry 15); D15, READY and BUSY of the minimal variant (log entry 12); D11, STATUS[7:3] are 0 (log
entry 15). The flag that says power-on has happened is the model's (log entry 4). -/
def Obligations.PowerOnCreatesTheIdleState : Prop :=
  ∀ s : State, s.powered = false → s.cfg.valid = true →
    exec .powerOn s = .next { State.powerOn s.cfg with
      pending := s.pending, draws := s.draws, readOut := s.readOut } ∧
    (State.powerOn s.cfg).state = .idle ∧ (State.powerOn s.cfg).control = 0 ∧
    (State.powerOn s.cfg).inputs = List.replicate s.cfg.operandRegs 0 ∧
    (State.powerOn s.cfg).weights = List.replicate s.cfg.operandRegs 0 ∧
    (State.powerOn s.cfg).bias = 0 ∧ (State.powerOn s.cfg).result = 0 ∧
    statusOf (State.powerOn s.cfg) = if s.cfg.fsm = .full then 0x01 else 0x03

/-- R125: POWERON has no step after the first (the spec's decision D25, log entry 24); R113: an invalid
configuration is refused when the state would be created. That both answer a refusal of a name of its own is the
model's choice (log entry 9). It also rests on the spec's decision D19, the admitted shapes (log entry 20). -/
def Obligations.PowerOnIsRefusedTwiceAndForInvalidConfigurations : Prop :=
  (∀ s : State, s.powered = true → exec .powerOn s = .refused .alreadyPoweredOn) ∧
  (∀ s : State, s.powered = false → s.cfg.valid = false → exec .powerOn s = .refused .invalidConfig)

/-- R8: when a configuration is valid (the admitted shapes are decision D19, log entry 20). -/
def Obligations.ConfigurationValidityIsTheRule : Prop :=
  ∀ c : Config, c.valid = true ↔
    c.kind = .scalar ∨
    (c.kind = .vector ∧ 1 ≤ c.n ∧ 1 ≤ c.w ∧ c.w ∣ 32 ∧ c.n ≤ 64 * (32 / c.w) ∧ 1 ≤ c.b ∧ c.b ≤ 32 ∧
      1 ≤ c.r ∧ c.r ≤ 32)

/-- R90's example and R125: in the power-on state with nothing scheduled a tick changes nothing, however many come (an
unscheduled step is a tick, log entry 1).
The zeros of the registers are the spec's decision D16 (log entry 10). -/
def Obligations.PoweredOnEngineRestsUntilTheHostActs : Prop :=
  ∀ (c : Config) (k : Nat), c.valid = true → runSteps k (State.powerOn c) = .next (State.powerOn c)

/-- R126: the RESET command is not power-on: through the RESET state and back in IDLE every register is as it was but
for START. It rests on the spec's decisions D9 and D14 (log entry 13) and D15, the minimal variant ignores RESET (log
entry 12); that an unscheduled step is a tick is log entry 1. -/
def Obligations.ResetCommandKeepsTheRegisters : Prop :=
  ∀ s t u : State, s.Running → s.pending = [] → s.state = .idle → s.control.getLsbD 0 = false →
    s.control.getLsbD 1 = true → step s = .next t → step t = .next u →
    u = s ∧ { t with state := s.state } = s
end

