-- ==== Sys2Proof/Laws/PerInstr.lean ====
section
/-! SUPPORT. The family of per-operation facts: the encoder sets the kind of the row and, in bits 7:0, the bits the
opcode table's match and mask columns fix. -/

namespace Sys2Proof.Laws.RowBits

/-- A row of spec/opcode_table.json as its `kind`, `mask` and `match` columns give it. A row with a condition in
place of a mask (`UNMAPPED.OPERAND`) has the mask of its group field, R46. -/
structure Row where
  kind : BitVec 8
  mask : BitVec 8
  bits : BitVec 8

def row : Instr → Row
  | .rdControl => ⟨kindRead, 0xFF, 0x00⟩
  | .wrControl _ => ⟨kindWrite, 0xFF, 0x00⟩
  | .rdStatus => ⟨kindRead, 0xFF, 0x01⟩
  | .wrStatus _ => ⟨kindWrite, 0xFF, 0x01⟩
  | .rdBias => ⟨kindRead, 0xFF, 0x02⟩
  | .wrBias _ => ⟨kindWrite, 0xFF, 0x02⟩
  | .rdResult => ⟨kindRead, 0xFF, 0x03⟩
  | .wrResult _ => ⟨kindWrite, 0xFF, 0x03⟩
  | .rdInputs _ => ⟨kindRead, 0xC0, 0x40⟩
  | .wrInputs _ _ => ⟨kindWrite, 0xC0, 0x40⟩
  | .rdWeights _ => ⟨kindRead, 0xC0, 0x80⟩
  | .wrWeights _ _ => ⟨kindWrite, 0xC0, 0x80⟩
  | .rdUnmapped04 _ => ⟨kindRead, 0xFC, 0x04⟩
  | .wrUnmapped04 _ _ => ⟨kindWrite, 0xFC, 0x04⟩
  | .rdUnmapped08 _ => ⟨kindRead, 0xF8, 0x08⟩
  | .wrUnmapped08 _ _ => ⟨kindWrite, 0xF8, 0x08⟩
  | .rdUnmapped10 _ => ⟨kindRead, 0xF0, 0x10⟩
  | .wrUnmapped10 _ _ => ⟨kindWrite, 0xF0, 0x10⟩
  | .rdUnmapped20 _ => ⟨kindRead, 0xE0, 0x20⟩
  | .wrUnmapped20 _ _ => ⟨kindWrite, 0xE0, 0x20⟩
  | .rdUnmappedC0 _ => ⟨kindRead, 0xC0, 0xC0⟩
  | .wrUnmappedC0 _ _ => ⟨kindWrite, 0xC0, 0xC0⟩
  | .rdUnmappedOperand .inputs _ => ⟨kindRead, 0xC0, 0x40⟩
  | .rdUnmappedOperand .weights _ => ⟨kindRead, 0xC0, 0x80⟩
  | .wrUnmappedOperand .inputs _ _ => ⟨kindWrite, 0xC0, 0x40⟩
  | .wrUnmappedOperand .weights _ _ => ⟨kindWrite, 0xC0, 0x80⟩
  | .start _ _ _ => ⟨kindCommand, 0x01, 0x01⟩
  | .reset _ _ => ⟨kindCommand, 0x03, 0x02⟩
  | .nop _ _ => ⟨kindCommand, 0x03, 0x00⟩
  | .smac | .vdot => ⟨kindCompute, 0x00, 0x00⟩
  | .tickFullIdle | .tickFullCompute | .tickFullFinish | .tickFullReset => ⟨kindTick, 0x00, 0x00⟩
  | .tickMinIdle | .tickMinCompute => ⟨kindTick, 0x00, 0x00⟩
  | .powerOn => ⟨kindPowerOn, 0x00, 0x00⟩

/-- The encoding of `i` carries its row's kind and the bits its row fixes. -/
def Statement (i : Instr) : Prop :=
  kindOf (encode i) = (row i).kind ∧ numberOf (encode i) &&& (row i).mask = (row i).bits

/-- The three fields of a step word are read back. -/
theorem numberOf_stepWord (d : Word) (k n : BitVec 8) : numberOf (stepWord d k n) = n := by
  apply BitVec.eq_of_getLsbD_eq
  intro i hi
  simp only [numberOf, stepWord, BitVec.getLsbD_extractLsb', BitVec.getLsbD_cast, BitVec.getLsbD_append]
  simp [hi]

theorem kindOf_stepWord (d : Word) (k n : BitVec 8) : kindOf (stepWord d k n) = k := by
  apply BitVec.eq_of_getLsbD_eq
  intro i hi
  simp only [kindOf, stepWord, BitVec.getLsbD_extractLsb', BitVec.getLsbD_cast, BitVec.getLsbD_append]
  simp [hi]

theorem dataOf_stepWord (d : Word) (k n : BitVec 8) : dataOf (stepWord d k n) = d := by
  apply BitVec.eq_of_getLsbD_eq
  intro i hi
  have h1 : ¬ 16 + i < 8 := by omega
  have h2 : ¬ 16 + i - 8 < 8 := by omega
  have h3 : 16 + i - 8 - 8 = i := by omega
  simp only [dataOf, stepWord, BitVec.getLsbD_extractLsb', BitVec.getLsbD_cast, BitVec.getLsbD_append,
    h1, h2, h3]
  simp [hi]

/-- The row facts follow from the number field alone. -/
theorem statement_of_number {i : Instr} {d : Word} {n : BitVec 8} (h : encode i = stepWord d (row i).kind n)
    (hn : n &&& (row i).mask = (row i).bits) : Statement i :=
  ⟨by rw [h, kindOf_stepWord], by rw [h, numberOf_stepWord]; exact hn⟩

theorem rdControl : Statement .rdControl :=
  statement_of_number rfl (by simp only [row]; decide)
theorem wrControl (data : Word) : Statement (.wrControl data) :=
  statement_of_number rfl (by simp only [row]; decide)
theorem rdStatus : Statement .rdStatus :=
  statement_of_number rfl (by simp only [row]; decide)
theorem wrStatus (data : Word) : Statement (.wrStatus data) :=
  statement_of_number rfl (by simp only [row]; decide)
theorem rdBias : Statement .rdBias :=
  statement_of_number rfl (by simp only [row]; decide)
theorem wrBias (data : Word) : Statement (.wrBias data) :=
  statement_of_number rfl (by simp only [row]; decide)
theorem rdResult : Statement .rdResult :=
  statement_of_number rfl (by simp only [row]; decide)
theorem wrResult (data : Word) : Statement (.wrResult data) :=
  statement_of_number rfl (by simp only [row]; decide)
theorem rdInputs (k : BitVec 6) : Statement (.rdInputs k) :=
  statement_of_number rfl (by simp only [row]; revert k; decide)
theorem wrInputs (k : BitVec 6) (data : Word) : Statement (.wrInputs k data) :=
  statement_of_number rfl (by simp only [row]; revert k; decide)
theorem rdWeights (k : BitVec 6) : Statement (.rdWeights k) :=
  statement_of_number rfl (by simp only [row]; revert k; decide)
theorem wrWeights (k : BitVec 6) (data : Word) : Statement (.wrWeights k data) :=
  statement_of_number rfl (by simp only [row]; revert k; decide)
theorem rdUnmapped04 (k : BitVec 2) : Statement (.rdUnmapped04 k) :=
  statement_of_number rfl (by simp only [row]; revert k; decide)
theorem wrUnmapped04 (k : BitVec 2) (data : Word) : Statement (.wrUnmapped04 k data) :=
  statement_of_number rfl (by simp only [row]; revert k; decide)
theorem rdUnmapped08 (k : BitVec 3) : Statement (.rdUnmapped08 k) :=
  statement_of_number rfl (by simp only [row]; revert k; decide)
theorem wrUnmapped08 (k : BitVec 3) (data : Word) : Statement (.wrUnmapped08 k data) :=
  statement_of_number rfl (by simp only [row]; revert k; decide)
theorem rdUnmapped10 (k : BitVec 4) : Statement (.rdUnmapped10 k) :=
  statement_of_number rfl (by simp only [row]; revert k; decide)
theorem wrUnmapped10 (k : BitVec 4) (data : Word) : Statement (.wrUnmapped10 k data) :=
  statement_of_number rfl (by simp only [row]; revert k; decide)
theorem rdUnmapped20 (k : BitVec 5) : Statement (.rdUnmapped20 k) :=
  statement_of_number rfl (by simp only [row]; revert k; decide)
theorem wrUnmapped20 (k : BitVec 5) (data : Word) : Statement (.wrUnmapped20 k data) :=
  statement_of_number rfl (by simp only [row]; revert k; decide)
theorem rdUnmappedC0 (k : BitVec 6) : Statement (.rdUnmappedC0 k) :=
  statement_of_number rfl (by simp only [row]; revert k; decide)
theorem wrUnmappedC0 (k : BitVec 6) (data : Word) : Statement (.wrUnmappedC0 k data) :=
  statement_of_number rfl (by simp only [row]; revert k; decide)
theorem rdUnmappedOperand (g : OperandGroup) (k : BitVec 6) : Statement (.rdUnmappedOperand g k) := by
  cases g <;> exact statement_of_number rfl (by simp only [row]; revert k; decide)
theorem wrUnmappedOperand (g : OperandGroup) (k : BitVec 6) (data : Word) : Statement (.wrUnmappedOperand g k data) := by
  cases g <;> exact statement_of_number rfl (by simp only [row]; revert k; decide)
theorem start (x : BitVec 5) (mode : BitVec 1) (reset : BitVec 1) : Statement (.start x mode reset) :=
  statement_of_number rfl (by simp only [row]; revert x mode reset; decide)
theorem reset (x : BitVec 5) (mode : BitVec 1) : Statement (.reset x mode) :=
  statement_of_number rfl (by simp only [row]; revert x mode; decide)
theorem nop (x : BitVec 5) (mode : BitVec 1) : Statement (.nop x mode) :=
  statement_of_number rfl (by simp only [row]; revert x mode; decide)
theorem smac : Statement .smac :=
  statement_of_number rfl (by simp only [row]; decide)
theorem vdot : Statement .vdot :=
  statement_of_number rfl (by simp only [row]; decide)
theorem tickFullIdle : Statement .tickFullIdle :=
  statement_of_number rfl (by simp only [row]; decide)
theorem tickFullCompute : Statement .tickFullCompute :=
  statement_of_number rfl (by simp only [row]; decide)
theorem tickFullFinish : Statement .tickFullFinish :=
  statement_of_number rfl (by simp only [row]; decide)
theorem tickFullReset : Statement .tickFullReset :=
  statement_of_number rfl (by simp only [row]; decide)
theorem tickMinIdle : Statement .tickMinIdle :=
  statement_of_number rfl (by simp only [row]; decide)
theorem tickMinCompute : Statement .tickMinCompute :=
  statement_of_number rfl (by simp only [row]; decide)
theorem powerOn : Statement .powerOn :=
  statement_of_number rfl (by simp only [row]; decide)

end Sys2Proof.Laws.RowBits
end

