-- ==== Sys2Proof/Laws/Decode.lean ====
section
/-! SUPPORT. What the decoder reads, one lemma for each row form, and how a write row follows the read row of the
same register number. -/

namespace Sys2Proof.Laws

theorem group_append (g : BitVec 2) (k : BitVec 6) : (g ++ k).extractLsb' 6 2 = g := by revert g k; decide
theorem index_append (g : BitVec 2) (k : BitVec 6) : (g ++ k).extractLsb' 0 6 = k := by revert g k; decide

/-- Outside the operand groups the number of operand registers plays no part. -/
theorem decodeRead_control_groups (m : Nat) (a : RegNum)
    (h : a.extractLsb' 6 2 = 0 ∨ a.extractLsb' 6 2 = 3) : decodeRead m a = decodeRead 0 a := by
  rcases h with h | h <;> simp [decodeRead, h]

theorem decodeRead_unmapped04 (m : Nat) (k : BitVec 2) : decodeRead m (0b000001#6 ++ k) = .rdUnmapped04 k := by
  rw [decodeRead_control_groups _ _ (.inl (by revert k; decide))]
  revert k; decide
theorem decodeRead_unmapped08 (m : Nat) (k : BitVec 3) : decodeRead m (0b00001#5 ++ k) = .rdUnmapped08 k := by
  rw [decodeRead_control_groups _ _ (.inl (by revert k; decide))]
  revert k; decide
theorem decodeRead_unmapped10 (m : Nat) (k : BitVec 4) : decodeRead m (0b0001#4 ++ k) = .rdUnmapped10 k := by
  rw [decodeRead_control_groups _ _ (.inl (by revert k; decide))]
  revert k; decide
theorem decodeRead_unmapped20 (m : Nat) (k : BitVec 5) : decodeRead m (0b001#3 ++ k) = .rdUnmapped20 k := by
  rw [decodeRead_control_groups _ _ (.inl (by revert k; decide))]
  revert k; decide
theorem decodeRead_unmappedC0 (m : Nat) (k : BitVec 6) : decodeRead m (0b11#2 ++ k) = .rdUnmappedC0 k := by
  rw [decodeRead_control_groups _ _ (.inr (by revert k; decide))]
  revert k; decide

theorem decodeRead_inputs (m : Nat) (k : BitVec 6) (h : k.toNat < m) :
    decodeRead m (0b01#2 ++ k) = .rdInputs k := by
  simp only [decodeRead, group_append, index_append, h]; rfl
theorem decodeRead_weights (m : Nat) (k : BitVec 6) (h : k.toNat < m) :
    decodeRead m (0b10#2 ++ k) = .rdWeights k := by
  simp only [decodeRead, group_append, index_append, h]; rfl
theorem decodeRead_unmappedOperand (m : Nat) (g : OperandGroup) (k : BitVec 6) (h : m ≤ k.toNat) :
    decodeRead m (g.bits ++ k) = .rdUnmappedOperand g k := by
  have h' : ¬ k.toNat < m := by omega
  cases g <;> simp only [decodeRead, OperandGroup.bits, group_append, index_append, h'] <;> rfl

/-- The WR row beside an RD row (R46: the same register number). -/
def writeOf (data : Word) : Instr → Instr
  | .rdControl => .wrControl data
  | .rdStatus => .wrStatus data
  | .rdBias => .wrBias data
  | .rdResult => .wrResult data
  | .rdInputs k => .wrInputs k data
  | .rdWeights k => .wrWeights k data
  | .rdUnmapped04 k => .wrUnmapped04 k data
  | .rdUnmapped08 k => .wrUnmapped08 k data
  | .rdUnmapped10 k => .wrUnmapped10 k data
  | .rdUnmapped20 k => .wrUnmapped20 k data
  | .rdUnmappedC0 k => .wrUnmappedC0 k data
  | .rdUnmappedOperand g k => .wrUnmappedOperand g k data
  | i => i

theorem decodeWrite_eq_writeOf (m : Nat) (a : RegNum) (data : Word) :
    decodeWrite m a data = writeOf data (decodeRead m a) := by
  simp only [decodeWrite, decodeRead]
  split_ifs <;> rfl

theorem decodeCommand_start (x : BitVec 5) (mode reset : BitVec 1) :
    decodeCommand (x ++ mode ++ reset ++ 0b1#1) = .start x mode reset := by revert x mode reset; decide
theorem decodeCommand_reset (x : BitVec 5) (mode : BitVec 1) :
    decodeCommand (x ++ mode ++ 0b10#2) = .reset x mode := by revert x mode; decide
theorem decodeCommand_nop (x : BitVec 5) (mode : BitVec 1) :
    decodeCommand (x ++ mode ++ 0b00#2) = .nop x mode := by revert x mode; decide

end Sys2Proof.Laws
end

