-- ==== Sys2Proof/Laws/Operands.lean ====
section
/-! SUPPORT. The arithmetic of signed values and patterns that every pipeline proof uses: ranges, congruences, the
uniqueness of a value in its range, and the widths a valid configuration has. -/

namespace Sys2Proof.Machine

/-- `sint_n` of an `n`-bit pattern is in the signed `n`-bit range. -/
theorem sint_range {n p : Nat} (hn : 1 ≤ n) (hp : p < 2 ^ n) : -(2 ^ (n - 1)) ≤ sint n p ∧ sint n p < 2 ^ (n - 1) := by
  obtain ⟨m, rfl⟩ : ∃ m, n = m + 1 := ⟨n - 1, by omega⟩
  have hz : (2 : Int) ^ (m + 1) = 2 * 2 ^ m := by rw [pow_succ]; ring
  have hn : 2 ^ (m + 1) = 2 * 2 ^ m := by rw [pow_succ]; ring
  have hc : ((2 ^ m : Nat) : Int) = 2 ^ m := by push_cast; rfl
  simp only [sint, Nat.add_sub_cancel]
  split_ifs with h
  · constructor <;> omega
  · rw [hz]; constructor <;> omega

/-- A signed value is its pattern modulo `2^n`. -/
theorem sint_emod (n p : Nat) : (sint n p - p) % 2 ^ n = 0 := by
  simp only [sint]
  split_ifs <;> simp

theorem wrapNat_cast (n : Nat) (z : Int) : (wrapNat n z : Int) = z % 2 ^ n :=
  Int.toNat_of_nonneg (Int.emod_nonneg _ (by positivity))

theorem wrapNat_lt (n : Nat) (z : Int) : wrapNat n z < 2 ^ n := by
  zify
  rw [wrapNat_cast]
  exact Int.emod_lt_of_pos _ (by positivity)

/-- `sint_n (wrap_n z)` is `z` modulo `2^n`. -/
theorem sint_wrapNat_emod (n : Nat) (z : Int) : (sint n (wrapNat n z) - z) % 2 ^ n = 0 := by
  have h := Int.dvd_of_emod_eq_zero (sint_emod n (wrapNat n z))
  rw [wrapNat_cast] at h
  have e : (2 : Int) ^ n ∣ z % 2 ^ n - z := Int.ModEq.dvd (Int.mod_modEq z (2 ^ n)).symm
  have := h.add e
  rw [sub_add_sub_cancel] at this
  exact Int.emod_eq_zero_of_dvd this

/-- A value stored in `n <= 32` bits of a word. -/
theorem ofNat_toNat_lt {n m : Nat} (h : m < 2 ^ n) : (BitVec.ofNat 32 m).toNat < 2 ^ n := by
  rw [BitVec.toNat_ofNat]
  exact lt_of_le_of_lt (Nat.mod_le _ _) h

theorem wrap_lt (n : Nat) (z : Int) : (wrap n z).toNat < 2 ^ n := ofNat_toNat_lt (wrapNat_lt n z)

theorem lowBits_lt (n : Nat) (w : Word) : (lowBits n w).toNat < 2 ^ n :=
  ofNat_toNat_lt (Nat.mod_lt _ (by positivity))

/-- The widths of BIAS and RESULT of a valid configuration (R5, R8). -/
theorem valid_widths {c : Config} (h : c.valid = true) :
    (1 ≤ c.biasWidth ∧ c.biasWidth ≤ 32) ∧ 1 ≤ c.resultWidth ∧ c.resultWidth ≤ 32 := by
  unfold Config.valid at h
  unfold Config.biasWidth Config.resultWidth
  cases hk : c.kind <;> simp [hk] at h ⊢
  omega

/-- The pipeline produces a pattern of the width of RESULT (R98). -/
theorem pipelineOut_lt (c : Config) (xs ys : List Word) (b : Word) :
    (pipelineOut c xs ys b).toNat < 2 ^ c.resultWidth := by
  unfold pipelineOut
  cases hk : c.kind
  · simp only [Config.resultWidth, hk]
    exact BitVec.isLt _
  · exact wrap_lt _ _

/-! ### The reduction tree -/

theorem pairLevel_length : ∀ p : List Int, (pairLevel p).length = (p.length + 1) / 2
  | [] => rfl
  | [_] => by simp [pairLevel]
  | _ :: _ :: r => by simp [pairLevel, pairLevel_length r]; omega

/-- A level has the sum of the level below it. -/
theorem pairLevel_sum : ∀ p : List Int, (pairLevel p).sum = p.sum
  | [] => rfl
  | [_] => rfl
  | _ :: _ :: r => by simp [pairLevel, pairLevel_sum r]; ring

end Sys2Proof.Machine
end

