-- ==== Sys2Proof/Laws/State.lean ====
section
/-! SUPPORT. One lemma for each field under each update of the state, so that no later proof unfolds a record
update. -/

namespace Sys2Proof.Machine

variable (s : State)

@[simp] theorem answer_cfg (w : Word) : (answer w s).cfg = s.cfg := rfl
@[simp] theorem answer_powered (w : Word) : (answer w s).powered = s.powered := rfl
@[simp] theorem answer_state (w : Word) : (answer w s).state = s.state := rfl
@[simp] theorem answer_control (w : Word) : (answer w s).control = s.control := rfl
@[simp] theorem answer_inputs (w : Word) : (answer w s).inputs = s.inputs := rfl
@[simp] theorem answer_weights (w : Word) : (answer w s).weights = s.weights := rfl
@[simp] theorem answer_bias (w : Word) : (answer w s).bias = s.bias := rfl
@[simp] theorem answer_result (w : Word) : (answer w s).result = s.result := rfl
@[simp] theorem answer_pending (w : Word) : (answer w s).pending = s.pending := rfl
@[simp] theorem answer_draws (w : Word) : (answer w s).draws = s.draws := rfl
@[simp] theorem answer_readOut (w : Word) : (answer w s).readOut = some w := rfl

@[simp] theorem answerFree_cfg : (answerFree s).cfg = s.cfg := rfl
@[simp] theorem answerFree_powered : (answerFree s).powered = s.powered := rfl
@[simp] theorem answerFree_state : (answerFree s).state = s.state := rfl
@[simp] theorem answerFree_control : (answerFree s).control = s.control := rfl
@[simp] theorem answerFree_inputs : (answerFree s).inputs = s.inputs := rfl
@[simp] theorem answerFree_weights : (answerFree s).weights = s.weights := rfl
@[simp] theorem answerFree_bias : (answerFree s).bias = s.bias := rfl
@[simp] theorem answerFree_result : (answerFree s).result = s.result := rfl
@[simp] theorem answerFree_pending : (answerFree s).pending = s.pending := rfl
@[simp] theorem answerFree_draws : (answerFree s).draws = s.draws + 1 := rfl
@[simp] theorem answerFree_readOut : (answerFree s).readOut = some (Config.draw32 s.draws) := rfl

@[simp] theorem setControl_cfg (c : Flags8) : (setControl c s).cfg = s.cfg := rfl
@[simp] theorem setControl_powered (c : Flags8) : (setControl c s).powered = s.powered := rfl
@[simp] theorem setControl_state (c : Flags8) : (setControl c s).state = s.state := rfl
@[simp] theorem setControl_control (c : Flags8) : (setControl c s).control = c := rfl
@[simp] theorem setControl_inputs (c : Flags8) : (setControl c s).inputs = s.inputs := rfl
@[simp] theorem setControl_weights (c : Flags8) : (setControl c s).weights = s.weights := rfl
@[simp] theorem setControl_bias (c : Flags8) : (setControl c s).bias = s.bias := rfl
@[simp] theorem setControl_result (c : Flags8) : (setControl c s).result = s.result := rfl
@[simp] theorem setControl_pending (c : Flags8) : (setControl c s).pending = s.pending := rfl
@[simp] theorem setControl_draws (c : Flags8) : (setControl c s).draws = s.draws := rfl
@[simp] theorem setControl_readOut (c : Flags8) : (setControl c s).readOut = s.readOut := rfl

@[simp] theorem setInput_cfg (k : Nat) (w : Word) : (setInput k w s).cfg = s.cfg := rfl
@[simp] theorem setInput_powered (k : Nat) (w : Word) : (setInput k w s).powered = s.powered := rfl
@[simp] theorem setInput_state (k : Nat) (w : Word) : (setInput k w s).state = s.state := rfl
@[simp] theorem setInput_control (k : Nat) (w : Word) : (setInput k w s).control = s.control := rfl
@[simp] theorem setInput_inputs (k : Nat) (w : Word) : (setInput k w s).inputs = s.inputs.set k w := rfl
@[simp] theorem setInput_weights (k : Nat) (w : Word) : (setInput k w s).weights = s.weights := rfl
@[simp] theorem setInput_bias (k : Nat) (w : Word) : (setInput k w s).bias = s.bias := rfl
@[simp] theorem setInput_result (k : Nat) (w : Word) : (setInput k w s).result = s.result := rfl
@[simp] theorem setInput_pending (k : Nat) (w : Word) : (setInput k w s).pending = s.pending := rfl
@[simp] theorem setInput_draws (k : Nat) (w : Word) : (setInput k w s).draws = s.draws := rfl
@[simp] theorem setInput_readOut (k : Nat) (w : Word) : (setInput k w s).readOut = s.readOut := rfl

@[simp] theorem setWeight_cfg (k : Nat) (w : Word) : (setWeight k w s).cfg = s.cfg := rfl
@[simp] theorem setWeight_powered (k : Nat) (w : Word) : (setWeight k w s).powered = s.powered := rfl
@[simp] theorem setWeight_state (k : Nat) (w : Word) : (setWeight k w s).state = s.state := rfl
@[simp] theorem setWeight_control (k : Nat) (w : Word) : (setWeight k w s).control = s.control := rfl
@[simp] theorem setWeight_inputs (k : Nat) (w : Word) : (setWeight k w s).inputs = s.inputs := rfl
@[simp] theorem setWeight_weights (k : Nat) (w : Word) : (setWeight k w s).weights = s.weights.set k w := rfl
@[simp] theorem setWeight_bias (k : Nat) (w : Word) : (setWeight k w s).bias = s.bias := rfl
@[simp] theorem setWeight_result (k : Nat) (w : Word) : (setWeight k w s).result = s.result := rfl
@[simp] theorem setWeight_pending (k : Nat) (w : Word) : (setWeight k w s).pending = s.pending := rfl
@[simp] theorem setWeight_draws (k : Nat) (w : Word) : (setWeight k w s).draws = s.draws := rfl
@[simp] theorem setWeight_readOut (k : Nat) (w : Word) : (setWeight k w s).readOut = s.readOut := rfl

@[simp] theorem setBias_cfg (w : Word) : (setBias w s).cfg = s.cfg := rfl
@[simp] theorem setBias_powered (w : Word) : (setBias w s).powered = s.powered := rfl
@[simp] theorem setBias_state (w : Word) : (setBias w s).state = s.state := rfl
@[simp] theorem setBias_control (w : Word) : (setBias w s).control = s.control := rfl
@[simp] theorem setBias_inputs (w : Word) : (setBias w s).inputs = s.inputs := rfl
@[simp] theorem setBias_weights (w : Word) : (setBias w s).weights = s.weights := rfl
@[simp] theorem setBias_bias (w : Word) : (setBias w s).bias = w := rfl
@[simp] theorem setBias_result (w : Word) : (setBias w s).result = s.result := rfl
@[simp] theorem setBias_pending (w : Word) : (setBias w s).pending = s.pending := rfl
@[simp] theorem setBias_draws (w : Word) : (setBias w s).draws = s.draws := rfl
@[simp] theorem setBias_readOut (w : Word) : (setBias w s).readOut = s.readOut := rfl

@[simp] theorem setResult_cfg (w : Word) : (setResult w s).cfg = s.cfg := rfl
@[simp] theorem setResult_powered (w : Word) : (setResult w s).powered = s.powered := rfl
@[simp] theorem setResult_state (w : Word) : (setResult w s).state = s.state := rfl
@[simp] theorem setResult_control (w : Word) : (setResult w s).control = s.control := rfl
@[simp] theorem setResult_inputs (w : Word) : (setResult w s).inputs = s.inputs := rfl
@[simp] theorem setResult_weights (w : Word) : (setResult w s).weights = s.weights := rfl
@[simp] theorem setResult_bias (w : Word) : (setResult w s).bias = s.bias := rfl
@[simp] theorem setResult_result (w : Word) : (setResult w s).result = w := rfl
@[simp] theorem setResult_pending (w : Word) : (setResult w s).pending = s.pending := rfl
@[simp] theorem setResult_draws (w : Word) : (setResult w s).draws = s.draws := rfl
@[simp] theorem setResult_readOut (w : Word) : (setResult w s).readOut = s.readOut := rfl

@[simp] theorem setState_cfg (st : ControlState) : (setState st s).cfg = s.cfg := rfl
@[simp] theorem setState_powered (st : ControlState) : (setState st s).powered = s.powered := rfl
@[simp] theorem setState_state (st : ControlState) : (setState st s).state = st := rfl
@[simp] theorem setState_control (st : ControlState) : (setState st s).control = s.control := rfl
@[simp] theorem setState_inputs (st : ControlState) : (setState st s).inputs = s.inputs := rfl
@[simp] theorem setState_weights (st : ControlState) : (setState st s).weights = s.weights := rfl
@[simp] theorem setState_bias (st : ControlState) : (setState st s).bias = s.bias := rfl
@[simp] theorem setState_result (st : ControlState) : (setState st s).result = s.result := rfl
@[simp] theorem setState_pending (st : ControlState) : (setState st s).pending = s.pending := rfl
@[simp] theorem setState_draws (st : ControlState) : (setState st s).draws = s.draws := rfl
@[simp] theorem setState_readOut (st : ControlState) : (setState st s).readOut = s.readOut := rfl

end Sys2Proof.Machine
end

