-- ==== Sys2Proof/Laws/Ops.lean ====
section
/-! SUPPORT. What each shared operation can do, said once: the tick that samples a pattern, the guard of a selected
row, the rows that are that tick, the fetch from the schedule, and, from these, the one case analysis of a step
that the proofs about runs cite. -/

namespace Sys2Proof.Machine

/-! ### The commit -/

variable {s t : State}

@[simp] theorem commit_eq (out : Word) (s : State) : commit out s = { s with result := out } := rfl

theorem commitIfComputing_eq (s : State) :
    commitIfComputing s = { s with result := if s.state = .compute then pipeline s else s.result } := by
  unfold commitIfComputing
  split_ifs <;> rfl

/-- START consumed is bit 0 cleared (R91). -/
theorem startCleared_eq_and (c : Flags8) : startCleared c = c &&& 0xFE := by revert c; decide

/-! ### The tick -/

/-- A tick that samples `c`: the table's next state, CONTROL with START consumed, the commit in COMPUTE. -/
theorem sampleTick_eq_some {c : Flags8} :
    sampleTick c s = some t ↔ ∃ st, nextState s.cfg.fsm s.state (commandOf c) = some st ∧
      t = { s with
        state := st, control := c &&& 0xFE
        result := if s.state = .compute then pipeline s else s.result } := by
  unfold sampleTick
  cases h : nextState s.cfg.fsm s.state (commandOf c) <;>
    simp [startCleared_eq_and, commitIfComputing_eq, setState, setControl, eq_comm]

/-- The table of R108 is complete over the states a variant has. -/
theorem nextState_of_has {f : Fsm} {st : ControlState} (h : f.has st = true) (cmd : Command) :
    ∃ st', nextState f st cmd = some st' ∧ f.has st' = true := by
  cases f <;> cases st <;> cases cmd <;> simp_all [nextState, Fsm.has]

/-- COMPUTE is entered from IDLE by START alone (R105, R108). -/
theorem nextState_compute {f : Fsm} {st : ControlState} {cmd : Command}
    (h : nextState f st cmd = some .compute) : st = .idle ∧ cmd = .start := by
  cases f <;> cases st <;> cases cmd <;> simp_all [nextState]

/-- The state part of a tick that begins outside IDLE does not look at the command (R93 to R95, R100). -/
theorem nextState_of_ne_idle {f : Fsm} {st : ControlState} (h : st ≠ .idle) (cmd cmd' : Command) :
    nextState f st cmd = nextState f st cmd' := by
  cases f <;> cases st <;> cases cmd <;> cases cmd' <;> simp_all [nextState]

theorem commandOf_eq_start {c : Flags8} : commandOf c = .start ↔ c.getLsbD 0 = true := by
  unfold commandOf; split_ifs <;> simp_all

theorem commandOf_congr {c c' : Flags8} (h : c.extractLsb' 0 2 = c'.extractLsb' 0 2) :
    commandOf c = commandOf c' := by
  have key : ∀ c : Flags8, commandOf c = commandOf ((c.extractLsb' 0 2).setWidth 8) := by decide
  rw [key c, key c', h]

/-- A tick is possible in every state the variant has. -/
theorem sampleTick_of_has (c : Flags8) (h : s.cfg.fsm.has s.state = true) : ∃ t, sampleTick c s = some t := by
  obtain ⟨st, hst, -⟩ := nextState_of_has h (commandOf c)
  exact ⟨_, sampleTick_eq_some.2 ⟨st, hst, rfl⟩⟩

theorem runCommand_next {c : Flags8} : runCommand c s = .next t ↔ sampleTick c s = some t := by
  unfold runCommand
  cases sampleTick c s <;> simp

theorem whenSelected_next {b : Bool} {u : State} : whenSelected b u = .next t ↔ b = true ∧ u = t := by
  unfold whenSelected
  cases b <;> simp

/-! ### The rows that are the tick -/

theorem execTickFullIdle_next (h : execTickFullIdle s = .next t) : tick s = some t := by
  obtain ⟨hb, rfl⟩ := whenSelected_next.1 h
  simp only [Bool.and_eq_true, decide_eq_true_eq] at hb
  unfold tick sampleTick commitIfComputing
  cases hc : commandOf s.control <;> simp [hb.1, hb.2, nextState, consumeStart, setState, setControl]

theorem execTickFullCompute_next (h : execTickFullCompute s = .next t) : tick s = some t := by
  obtain ⟨hb, rfl⟩ := whenSelected_next.1 h
  simp only [Bool.and_eq_true, decide_eq_true_eq] at hb
  simp [tick, sampleTick, commitIfComputing, hb.1, hb.2, nextState, consumeStart, setState, setControl]

theorem execTickFullFinish_next (h : execTickFullFinish s = .next t) : tick s = some t := by
  obtain ⟨hb, rfl⟩ := whenSelected_next.1 h
  simp only [Bool.and_eq_true, decide_eq_true_eq] at hb
  simp [tick, sampleTick, commitIfComputing, hb.1, hb.2, nextState, consumeStart, setState, setControl]

theorem execTickFullReset_next (h : execTickFullReset s = .next t) : tick s = some t := by
  obtain ⟨hb, rfl⟩ := whenSelected_next.1 h
  simp only [Bool.and_eq_true, decide_eq_true_eq] at hb
  simp [tick, sampleTick, commitIfComputing, hb.1, hb.2, nextState, consumeStart, setState, setControl]

theorem execTickMinIdle_next (h : execTickMinIdle s = .next t) : tick s = some t := by
  obtain ⟨hb, rfl⟩ := whenSelected_next.1 h
  simp only [Bool.and_eq_true, decide_eq_true_eq] at hb
  unfold tick sampleTick commitIfComputing
  cases hc : commandOf s.control <;> simp [hb.1, hb.2, nextState, consumeStart, setState, setControl]

theorem execTickMinCompute_next (h : execTickMinCompute s = .next t) : tick s = some t := by
  obtain ⟨hb, rfl⟩ := whenSelected_next.1 h
  simp only [Bool.and_eq_true, decide_eq_true_eq] at hb
  simp [tick, sampleTick, commitIfComputing, hb.1, hb.2, nextState, consumeStart, setState, setControl]

theorem execSmac_next (h : execSmac s = .next t) : tick s = some t := by
  obtain ⟨hb, rfl⟩ := whenSelected_next.1 h
  simp only [Bool.and_eq_true, decide_eq_true_eq] at hb
  cases hf : s.cfg.fsm <;>
    simp [tick, sampleTick, commitIfComputing, hb.1, hb.2, hf, nextState, consumeStart, setState, setControl,
      afterCompute, pipeline, pipelineOut, readInput, readWeight]

theorem execVdot_next (h : execVdot s = .next t) : tick s = some t := by
  obtain ⟨hb, rfl⟩ := whenSelected_next.1 h
  simp only [Bool.and_eq_true, decide_eq_true_eq] at hb
  cases hf : s.cfg.fsm <;>
    simp [tick, sampleTick, commitIfComputing, hb.1, hb.2, hf, nextState, consumeStart, setState, setControl,
      afterCompute, pipeline, pipelineOut]

/-- In a state its variant has, the TICK row that variant and state select is the tick. -/
theorem exec_decodeTick {i : Instr} (hi : decodeTick s.cfg.fsm s.state = some i) :
    ∃ t, exec i s = .next t ∧ tick s = some t := by
  have key : ∃ t, exec i s = .next t := by
    cases hf : s.cfg.fsm <;> cases hs : s.state <;> simp only [hf, hs, decodeTick] at hi <;>
      first
        | (cases hi; exact ⟨_, by simp only [exec, execTickFullIdle, execTickFullCompute, execTickFullFinish,
            execTickFullReset, execTickMinIdle, execTickMinCompute, whenSelected, hf, hs]; rfl⟩)
        | cases hi
  obtain ⟨t, ht⟩ := key
  refine ⟨t, ht, ?_⟩
  cases hf : s.cfg.fsm <;> cases hs : s.state <;> simp only [hf, hs, decodeTick] at hi <;> cases hi
  · exact execTickFullIdle_next ht
  · exact execTickFullCompute_next ht
  · exact execTickFullFinish_next ht
  · exact execTickFullReset_next ht
  · exact execTickMinIdle_next ht
  · exact execTickMinCompute_next ht

/-- In COMPUTE the compute operation the engine performs is the tick. -/
theorem exec_decodeCompute (hs : s.state = .compute) :
    ∃ t, exec (decodeCompute s.cfg.kind) s = .next t ∧ tick s = some t := by
  cases hk : s.cfg.kind
  · obtain ⟨t, h⟩ : ∃ t, execSmac s = .next t := by simp [execSmac, whenSelected, hk, hs]
    exact ⟨t, h, execSmac_next h⟩
  · obtain ⟨t, h⟩ : ∃ t, execVdot s = .next t := by simp [execVdot, whenSelected, hk, hs]
    exact ⟨t, h, execVdot_next h⟩

/-- A command row samples the pattern it stands for. -/
theorem exec_decodeCommand (c : Flags8) (s : State) : exec (decodeCommand c) s = runCommand c s := by
  have key : ∀ c : Flags8,
      (c.extractLsb' 0 1 = 1#1 → c.extractLsb' 3 5 ++ c.extractLsb' 2 1 ++ c.extractLsb' 1 1 ++ 0b1#1 = c) ∧
      (¬ c.extractLsb' 0 1 = 1#1 → c.extractLsb' 1 1 = 1#1 →
        c.extractLsb' 3 5 ++ c.extractLsb' 2 1 ++ 0b10#2 = c) ∧
      (¬ c.extractLsb' 0 1 = 1#1 → ¬ c.extractLsb' 1 1 = 1#1 →
        c.extractLsb' 3 5 ++ c.extractLsb' 2 1 ++ 0b00#2 = c) := by decide
  obtain ⟨k1, k2, k3⟩ := key c
  unfold decodeCommand
  split_ifs with h1 h2
  · simp only [exec, execStart]; exact congrArg (runCommand · s) (k1 h1)
  · simp only [exec, execReset]; exact congrArg (runCommand · s) (k2 h1 h2)
  · simp only [exec, execNop]; exact congrArg (runCommand · s) (k3 h1 h2)

/-! ### Bus operations -/

/-- A read changes what the host holds and the draw counter, and nothing of the hardware (R38). -/
theorem exec_decodeRead (m : Nat) (a : RegNum) (s : State) :
    ∃ o d, exec (decodeRead m a) s = .next { s with readOut := o, draws := d } := by
  have answered : ∀ w, ∃ o d, answer w s = { s with readOut := o, draws := d } := fun w => ⟨_, _, rfl⟩
  have drawn : ∃ o d, answerFree s = { s with readOut := o, draws := d } := ⟨_, _, rfl⟩
  have key : ∀ i, i = decodeRead m a → ∃ u, exec i s = .next u ∧ ∃ o d, u = { s with readOut := o, draws := d } := by
    intro i hi
    unfold decodeRead at hi
    dsimp only at hi
    split_ifs at hi <;> subst hi <;>
      simp only [exec, execRdControl, execRdStatus, execRdBias, execRdResult, execRdInputs, execRdWeights,
        execRdUnmapped04, execRdUnmapped08, execRdUnmapped10, execRdUnmapped20, execRdUnmappedC0,
        execRdUnmappedOperand] <;>
      refine ⟨_, rfl, ?_⟩ <;> (try split_ifs) <;> first | exact drawn | exact answered _
  obtain ⟨u, hu, o, d, rfl⟩ := key _ rfl
  exact ⟨o, d, hu⟩

/-- A write changes at most CONTROL, one operand register or BIAS; CONTROL only at number 0 (R61). -/
theorem exec_decodeWrite (m : Nat) (a : RegNum) (w : Word) (s : State) :
    ∃ c xs ys b, exec (decodeWrite m a w) s =
        .next { s with control := c, inputs := xs, weights := ys, bias := b } ∧
      xs.length = s.inputs.length ∧ ys.length = s.weights.length ∧
      (b = s.bias ∨ b = lowBits s.cfg.biasWidth w) ∧
      (a = 0 → c = w.extractLsb' 0 8) ∧ (a ≠ 0 → c = s.control) := by
  have at0 : a.extractLsb' 6 2 = 0#2 → a.extractLsb' 0 6 = 0#6 → a = 0#8 := by revert a; decide
  have ne0 : a = 0#8 → a.extractLsb' 6 2 = 0#2 ∧ a.extractLsb' 0 6 = 0#6 := by revert a; decide
  have kept : a ≠ 0 → ∃ c xs ys b, s = { s with control := c, inputs := xs, weights := ys, bias := b } ∧
      xs.length = s.inputs.length ∧ ys.length = s.weights.length ∧ (b = s.bias ∨ b = lowBits s.cfg.biasWidth w) ∧
      (a = 0 → c = w.extractLsb' 0 8) ∧ (a ≠ 0 → c = s.control) :=
    fun h => ⟨_, _, _, _, rfl, rfl, rfl, .inl rfl, fun h' => (h h').elim, fun _ => rfl⟩
  have input : a ≠ 0 → ∀ k, ∃ c xs ys b,
      setInput k w s = { s with control := c, inputs := xs, weights := ys, bias := b } ∧
      xs.length = s.inputs.length ∧ ys.length = s.weights.length ∧ (b = s.bias ∨ b = lowBits s.cfg.biasWidth w) ∧
      (a = 0 → c = w.extractLsb' 0 8) ∧ (a ≠ 0 → c = s.control) :=
    fun h k => ⟨_, _, _, _, rfl, by simp, rfl, .inl rfl, fun h' => (h h').elim, fun _ => rfl⟩
  have weight : a ≠ 0 → ∀ k, ∃ c xs ys b,
      setWeight k w s = { s with control := c, inputs := xs, weights := ys, bias := b } ∧
      xs.length = s.inputs.length ∧ ys.length = s.weights.length ∧ (b = s.bias ∨ b = lowBits s.cfg.biasWidth w) ∧
      (a = 0 → c = w.extractLsb' 0 8) ∧ (a ≠ 0 → c = s.control) :=
    fun h k => ⟨_, _, _, _, rfl, rfl, by simp, .inl rfl, fun h' => (h h').elim, fun _ => rfl⟩
  have key : ∀ i, i = decodeWrite m a w → ∃ u, exec i s = .next u ∧ ∃ c xs ys b,
      u = { s with control := c, inputs := xs, weights := ys, bias := b } ∧
      xs.length = s.inputs.length ∧ ys.length = s.weights.length ∧ (b = s.bias ∨ b = lowBits s.cfg.biasWidth w) ∧
      (a = 0 → c = w.extractLsb' 0 8) ∧ (a ≠ 0 → c = s.control) := by
    intro i hi
    unfold decodeWrite at hi
    dsimp only at hi
    split_ifs at hi with g0 k0 k1 k2 k3 k4 k5 k6 g1 m1 g2 m2
    · subst hi
      exact ⟨_, rfl, _, _, _, _, rfl, rfl, rfl, .inl rfl, fun _ => rfl, fun h => (h (at0 g0 k0)).elim⟩
    all_goals
      have hne : a ≠ 0 := fun h => by have := ne0 h; simp_all
      subst hi
      simp only [exec, execWrStatus, execWrBias, execWrResult, execWrInputs, execWrWeights, execWrUnmapped04,
        execWrUnmapped08, execWrUnmapped10, execWrUnmapped20, execWrUnmappedC0, execWrUnmappedOperand]
      refine ⟨_, rfl, ?_⟩
      first
        | exact kept hne
        | exact ⟨_, _, _, _, rfl, rfl, rfl, .inr rfl, fun h' => (hne h').elim, fun _ => rfl⟩
        | (split_ifs <;> first | exact kept hne | exact input hne _ | exact weight hne _)
  obtain ⟨u, hu, c, xs, ys, b, rfl, h⟩ := key _ rfl
  exact ⟨c, xs, ys, b, hu, h⟩

/-! ### The shape of the state -/

/-- A tick keeps the shape. -/
theorem sampleTick_wf {c : Flags8} (h : s.Wf) (ht : sampleTick c s = some t) : t.Wf := by
  obtain ⟨st, hst, rfl⟩ := sampleTick_eq_some.1 ht
  obtain ⟨st', h1, h2⟩ := nextState_of_has h.2.2.2.2.2 (commandOf c)
  rw [hst] at h1
  cases h1
  refine ⟨h.1, h.2.1, h.2.2.1, h.2.2.2.1, ?_, h2⟩
  show (if s.state = .compute then pipeline s else s.result).toNat < 2 ^ s.cfg.resultWidth
  split_ifs
  · exact pipelineOut_lt _ _ _ _
  · exact h.2.2.2.2.1

/-- A write keeps the shape. -/
theorem exec_decodeWrite_wf {m : Nat} {a : RegNum} {w : Word} (h : s.Wf)
    (ht : exec (decodeWrite m a w) s = .next t) : t.Wf := by
  obtain ⟨c, xs, ys, b, e, l1, l2, hb, -, -⟩ := exec_decodeWrite m a w s
  rw [e] at ht
  cases ht
  refine ⟨h.1, l1.trans h.2.1, l2.trans h.2.2.1, ?_, h.2.2.2.2.1, h.2.2.2.2.2⟩
  show b.toNat < 2 ^ s.cfg.biasWidth
  rcases hb with rfl | rfl
  · exact h.2.2.2.1
  · exact lowBits_lt _ _

/-- A read keeps the shape. -/
theorem exec_decodeRead_wf {m : Nat} {a : RegNum} (h : s.Wf) (ht : exec (decodeRead m a) s = .next t) : t.Wf := by
  obtain ⟨o, d, e⟩ := exec_decodeRead m a s
  rw [e] at ht
  cases ht
  exact h

/-- `PowerOn()` creates a state of the shape for every valid configuration. -/
theorem powerOn_wf {c : Config} (h : c.valid = true) : (State.powerOn c).Wf := by
  refine ⟨h, by simp [State.powerOn], by simp [State.powerOn], by simp [State.powerOn], by simp [State.powerOn], ?_⟩
  cases hf : c.fsm <;> simp [State.powerOn, hf, Fsm.has]

/-! ### The step -/

@[simp] theorem fetch_cons {w : StepWord} {rest : List StepWord} (h : s.pending = w :: rest) :
    fetch s = (w, { s with pending := rest }) := by simp [fetch, h]

@[simp] theorem fetch_nil (h : s.pending = []) : fetch s = (unscheduled s, s) := by simp [fetch, h]

/-- What the fetch does to the state: the schedule loses its head. -/
theorem fetch_state (s : State) : (fetch s).2 = { s with pending := s.pending.tail } := by
  cases h : s.pending with
  | nil => rw [fetch_nil h, List.tail_nil, ← h]
  | cons w rest => rw [fetch_cons h]; rfl

/-- With nothing scheduled a powered engine ticks. -/
theorem step_nil (hp : s.powered = true) (hn : s.pending = []) (hs : s.cfg.fsm.has s.state = true) :
    ∃ t, step s = .next t ∧ tick s = some t := by
  have hd : ∃ i, decodeTick s.cfg.fsm s.state = some i := by
    cases hf : s.cfg.fsm <;> cases hst : s.state <;> simp_all [decodeTick, Fsm.has]
  obtain ⟨i, hi⟩ := hd
  obtain ⟨t, ht, htick⟩ := exec_decodeTick hi
  refine ⟨t, ?_, htick⟩
  have hdec : decode s.selection (unscheduled s) = .ok i := by
    simp only [unscheduled, hp, if_true]
    simp [decode, State.selection, Laws.RowBits.kindOf_stepWord, Laws.RowBits.numberOf_stepWord, Laws.RowBits.dataOf_stepWord,
      kindRead, kindWrite, kindCommand, kindCompute, kindTick, kindPowerOn, hp, hi]
  simp only [step, fetch_nil hn, hdec, ht]

/-- The cases of a step of a powered engine, each with what decides it and what it does to the state `u` that the
fetch leaves. -/
theorem step_cases (hp : s.powered = true) (h : step s = .next t) :
    let w := (fetch s).1
    let u := (fetch s).2
    (kindOf w = kindRead ∧ dataOf w = 0 ∧ exec (decodeRead s.cfg.operandRegs (numberOf w)) u = .next t) ∨
    (kindOf w = kindWrite ∧ exec (decodeWrite s.cfg.operandRegs (numberOf w) (dataOf w)) u = .next t) ∨
    (kindOf w = kindCommand ∧ dataOf w = 0 ∧ sampleTick (numberOf w) u = some t) ∨
    (kindOf w = kindCompute ∧ s.state = .compute ∧ tick u = some t) ∨
    (kindOf w = kindTick ∧ tick u = some t) := by
  intro w u
  have hu : u = { s with pending := s.pending.tail } := fetch_state s
  have hsel : u.selection = ⟨s.cfg, s.state, true⟩ := by rw [hu]; simp [State.selection, hp]
  unfold step at h
  change (match decode u.selection w with
    | .ok i => exec i u
    | .error why => .refused (.undecodable why)) = .next t at h
  rw [hsel] at h
  unfold decode at h
  split_ifs at h with h1 h2 h3 h4 h5 h6 h7 h8 h9 h10 h11 h12
  · exact absurd rfl h3
  · exact .inr (.inl ⟨h5, h⟩)
  · exact .inl ⟨h7, by simpa using h6, h⟩
  · exact .inr (.inr (.inl ⟨h8, by simpa using h6, runCommand_next.1 (by rw [← exec_decodeCommand]; exact h)⟩))
  · refine .inr (.inr (.inr (.inl ⟨h10, h11, ?_⟩)))
    obtain ⟨t', ht', htick⟩ := exec_decodeCompute (s := u) (by rw [hu]; exact h11)
    rw [show u.cfg.kind = s.cfg.kind by rw [hu], show exec (decodeCompute s.cfg.kind) u = .next t from h] at ht'
    cases ht'
    exact htick
  · refine .inr (.inr (.inr (.inr ⟨h12, ?_⟩)))
    cases hd : decodeTick s.cfg.fsm s.state with
    | none => simp only [hd] at h; cases h
    | some i =>
      simp only [hd] at h
      change exec i u = _ at h
      obtain ⟨t', ht', htick⟩ := exec_decodeTick (s := u) (i := i) (by rw [hu]; exact hd)
      rw [h] at ht'
      cases ht'
      exact htick

/-- Before power-on the only step that completes is POWERON (R125). -/
theorem step_unpowered (hp : s.powered = false) (h : step s = .next t) : exec .powerOn (fetch s).2 = .next t := by
  unfold step at h
  have hu := fetch_state s
  generalize (fetch s).2 = u at *
  have hsel : u.selection = ⟨s.cfg, s.state, false⟩ := by rw [hu]; simp [State.selection, hp]
  rw [hsel] at h
  unfold decode at h
  split_ifs at h
  all_goals first
    | exact h
    | simp_all

end Sys2Proof.Machine
end

