-- ==== Sys2Proof/Tests/Slice0.lean ====
section
/-! SUPPORT. Tests of the model against the spec: ill-formed terms that WellFormed refuses, words written out from the
encodings and what they decode to, one step at a time with the values of 95_test_vectors.md, and for each
obligation with hypotheses a witness that meets them. No value here was computed with the model. -/

open Sys2Proof Sys2Proof.Machine

namespace Sys2Proof.Tests

/-! ### Small states -/

/-- A scalar engine with the operands of vector S1 (Scenario A). -/
def scalarAt (c : Config) (st : ControlState) (control : Flags8) : State :=
  { State.powerOn c with
    state := st, control := control, inputs := [0x00010000], weights := [0x00020000], bias := 0x00010000 }

/-- A vector engine with given operand registers. -/
def vectorAt (c : Config) (st : ControlState) (xs ys : List Word) (b : Word) : State :=
  { State.powerOn c with state := st, inputs := xs, weights := ys, bias := b }

/-- The engine of vector V8b on `REF_V8_MIN`, in COMPUTE. -/
def v8b : State :=
  vectorAt .refV8Min .compute [0xFCFDFEFF, 0xF8F9FAFB] [0x05060708, 0x01020304] 0xFFFB

/-- The engine of vector V16a on `REF_V16_FULL`, in COMPUTE. -/
def v16a : State :=
  vectorAt .refV16Full .compute [0x04030201, 0x08070605, 0x0C0B0A09, 0x100F0E0D]
    [0xFF01FF01, 0xFF01FF01, 0xFF01FF01, 0xFF01FF01] 0x0064

/-- The shape with the most operand registers the numbering has room for (R8: `M = 64`). -/
def widest : Config := ⟨.vector, .full, 256, 8, 32, 0, 32⟩

/-- A shape of odd lane count with a narrow BIAS and a wide RESULT (VX1). -/
def vx1 : Config := ⟨.vector, .full, 3, 8, 8, 0, 32⟩

def scheduled (ws : List StepWord) (s : State) : State := { s with pending := ws }

/-- What a step leaves, seen through `f`; none if it does not complete. -/
def after {α : Type} (f : State → α) : Host.Outcome State Fault Refusal → Option α
  | .next t => some (f t)
  | .fault _ => none
  | .refused _ => none

/-- The control state, CONTROL, STATUS and RESULT: the columns of 95_test_vectors.md section 2.5. -/
def columns (s : State) : ControlState × Flags8 × Flags8 × Word := (s.state, s.control, statusOf s, s.result)

/-! ### WellFormed refuses an ill-formed term at each of its checks -/

theorem test_wf_bus_needs_power :
    wellFormed ⟨.refSFull, .idle, false⟩ .rdControl = false ∧
    wellFormed ⟨.refSFull, .idle, false⟩ (.wrBias 0) = false ∧
    wellFormed ⟨.refSFull, .idle, false⟩ (.rdUnmapped04 0) = false ∧
    wellFormed ⟨.refSFull, .idle, false⟩ (.wrUnmappedC0 0 0) = false ∧
    wellFormed ⟨.refSFull, .idle, false⟩ (.rdInputs 0) = false ∧
    wellFormed ⟨.refSFull, .idle, false⟩ (.rdUnmappedOperand .inputs 1) = false := by decide
theorem test_wf_command_needs_power :
    wellFormed ⟨.refSFull, .idle, false⟩ (.start 0 0 0) = false ∧
    wellFormed ⟨.refSFull, .idle, false⟩ (.reset 0 0) = false ∧
    wellFormed ⟨.refSFull, .idle, false⟩ (.nop 0 0) = false := by decide
theorem test_wf_mapped_index :
    wellFormed ⟨.refV16Full, .idle, true⟩ (.rdInputs 4) = false ∧
    wellFormed ⟨.refV16Full, .idle, true⟩ (.wrInputs 4 0) = false ∧
    wellFormed ⟨.refV16Full, .idle, true⟩ (.rdWeights 63) = false ∧
    wellFormed ⟨.refSFull, .idle, true⟩ (.wrWeights 1 0) = false := by decide
theorem test_wf_unmapped_index :
    wellFormed ⟨.refV16Full, .idle, true⟩ (.rdUnmappedOperand .inputs 3) = false ∧
    wellFormed ⟨.refV16Full, .idle, true⟩ (.wrUnmappedOperand .weights 3 0) = false := by decide
theorem test_wf_compute_kind_and_state :
    wellFormed ⟨.refV8Full, .compute, true⟩ .smac = false ∧ wellFormed ⟨.refSFull, .compute, true⟩ .vdot = false ∧
    wellFormed ⟨.refSFull, .idle, true⟩ .smac = false ∧ wellFormed ⟨.refV8Full, .finish, true⟩ .vdot = false := by
  decide
theorem test_wf_tick_variant_and_state :
    wellFormed ⟨.refSMin, .idle, true⟩ .tickFullIdle = false ∧
    wellFormed ⟨.refSFull, .idle, true⟩ .tickFullCompute = false ∧
    wellFormed ⟨.refSFull, .reset, true⟩ .tickFullFinish = false ∧
    wellFormed ⟨.refSFull, .finish, true⟩ .tickFullReset = false ∧
    wellFormed ⟨.refSFull, .idle, true⟩ .tickMinIdle = false ∧
    wellFormed ⟨.refSMin, .idle, true⟩ .tickMinCompute = false := by decide
theorem test_wf_power_on_is_first : wellFormed ⟨.refSFull, .idle, true⟩ .powerOn = false := by decide

/-! ### Each constructor, from a word written out from its encoding (R46, R47; kind field: log entry 2) -/

/-- The selection of the bus words below: `REF_V16_FULL`, `M = 4`. -/
def sel16 : Selection := ⟨.refV16Full, .idle, true⟩

theorem test_decode_control :
    decode sel16 0b00000000000000000000000000000000_00000000_00000000#48 = .ok .rdControl ∧
    decode sel16 0b00000000000000000000000111111000_00000001_00000000#48 = .ok (.wrControl 0x000001F8) := by decide
theorem test_decode_status :
    decode sel16 0b00000000000000000000000000000000_00000000_00000001#48 = .ok .rdStatus ∧
    decode sel16 0b00000000000000000000000011111111_00000001_00000001#48 = .ok (.wrStatus 0x000000FF) := by decide
theorem test_decode_bias :
    decode sel16 0b00000000000000000000000000000000_00000000_00000010#48 = .ok .rdBias ∧
    decode sel16 0b11111111111111111111111111111011_00000001_00000010#48 = .ok (.wrBias 0xFFFFFFFB) := by decide
theorem test_decode_result :
    decode sel16 0b00000000000000000000000000000000_00000000_00000011#48 = .ok .rdResult ∧
    decode sel16 0b11011110101011011011111011101111_00000001_00000011#48 = .ok (.wrResult 0xDEADBEEF) := by decide
theorem test_decode_inputs :
    decode sel16 0b00000000000000000000000000000000_00000000_01000011#48 = .ok (.rdInputs 3) ∧
    decode sel16 0b00000100000000110000001000000001_00000001_01000000#48 = .ok (.wrInputs 0 0x04030201) := by decide
theorem test_decode_weights :
    decode sel16 0b00000000000000000000000000000000_00000000_10000010#48 = .ok (.rdWeights 2) ∧
    decode sel16 0b11111111000000011111111100000001_00000001_10000011#48 = .ok (.wrWeights 3 0xFF01FF01) := by decide
theorem test_decode_unmapped04 :
    decode sel16 0b00000000000000000000000000000000_00000000_00000110#48 = .ok (.rdUnmapped04 2) ∧
    decode sel16 0b00000000000000000000000000000001_00000001_00000111#48 = .ok (.wrUnmapped04 3 1) := by decide
theorem test_decode_unmapped08 :
    decode sel16 0b00000000000000000000000000000000_00000000_00001001#48 = .ok (.rdUnmapped08 1) ∧
    decode sel16 0b00000000000000000000000000000001_00000001_00001111#48 = .ok (.wrUnmapped08 7 1) := by decide
theorem test_decode_unmapped10 :
    decode sel16 0b00000000000000000000000000000000_00000000_00010110#48 = .ok (.rdUnmapped10 6) ∧
    decode sel16 0b00000000000000000000000000000001_00000001_00011111#48 = .ok (.wrUnmapped10 15 1) := by decide
theorem test_decode_unmapped20 :
    decode sel16 0b00000000000000000000000000000000_00000000_00100001#48 = .ok (.rdUnmapped20 1) ∧
    decode sel16 0b00000000000000000000000000000001_00000001_00111111#48 = .ok (.wrUnmapped20 31 1) := by decide
theorem test_decode_unmappedC0 :
    decode sel16 0b00000000000000000000000000000000_00000000_11000000#48 = .ok (.rdUnmappedC0 0) ∧
    decode sel16 0b00000000000000000000000000000001_00000001_11111111#48 = .ok (.wrUnmappedC0 63 1) := by decide
theorem test_decode_unmapped_operand :
    decode sel16 0b00000000000000000000000000000000_00000000_01000100#48 = .ok (.rdUnmappedOperand .inputs 4) ∧
    decode sel16 0b00000000000000000000000000000001_00000001_10111111#48 =
      .ok (.wrUnmappedOperand .weights 63 1) := by decide
theorem test_decode_start :
    decode sel16 0b00000000000000000000000000000000_00000010_10010101#48 = .ok (.start 0b10010 1 0) ∧
    decode sel16 0b00000000000000000000000000000000_00000010_00000011#48 = .ok (.start 0 0 1) := by decide
theorem test_decode_reset_command :
    decode sel16 0b00000000000000000000000000000000_00000010_00001110#48 = .ok (.reset 0b00001 1) := by decide
theorem test_decode_nop :
    decode sel16 0b00000000000000000000000000000000_00000010_11111000#48 = .ok (.nop 0b11111 0) := by decide
theorem test_decode_compute :
    decode ⟨.refSFull, .compute, true⟩ 0b0_00000011_00000000#48 = .ok .smac ∧
    decode ⟨.refV8Min, .compute, true⟩ 0b0_00000011_00000000#48 = .ok .vdot := by decide
theorem test_decode_tick_full :
    decode ⟨.refSFull, .idle, true⟩ 0b0_00000100_00000000#48 = .ok .tickFullIdle ∧
    decode ⟨.refSFull, .compute, true⟩ 0b0_00000100_00000000#48 = .ok .tickFullCompute ∧
    decode ⟨.refSFull, .finish, true⟩ 0b0_00000100_00000000#48 = .ok .tickFullFinish ∧
    decode ⟨.refSFull, .reset, true⟩ 0b0_00000100_00000000#48 = .ok .tickFullReset := by decide
theorem test_decode_tick_minimal :
    decode ⟨.refSMin, .idle, true⟩ 0b0_00000100_00000000#48 = .ok .tickMinIdle ∧
    decode ⟨.refSMin, .compute, true⟩ 0b0_00000100_00000000#48 = .ok .tickMinCompute := by decide
theorem test_decode_power_on :
    decode ⟨.refSFull, .idle, false⟩ 0b0_00000101_00000000#48 = .ok .powerOn := by decide

/-- The decoder rejects by name. -/
theorem test_decode_rejects :
    decode sel16 0x00000000_06_00#48 = .error .unknownKind ∧
    decode sel16 0x00000001_00_00#48 = .error .unusedFieldNotZero ∧
    decode sel16 0x00000000_04_01#48 = .error .unusedFieldNotZero ∧
    decode ⟨.refSFull, .idle, false⟩ 0#48 = .error .notPoweredOn ∧
    decode sel16 0x00000000_05_00#48 = .error .alreadyPoweredOn ∧
    decode sel16 0x00000000_03_00#48 = .error .noCommitHere ∧
    decode ⟨.refSMin, .finish, true⟩ 0x00000000_04_00#48 = .error .noSuchState := by decide

/-- A word of the opcode table is a read; a row without bits is the clock's tick (log entry 2). -/
theorem test_table_words :
    decodeTableWord 8 0x00 = some .rdControl ∧ decodeTableWord 8 0x40 = some (.rdInputs 0) ∧
    decodeTableWord 8 0xC0 = some (.rdUnmappedC0 0) ∧ decodeTableWord 0 0 = some .tickFullIdle := by decide

/-! ### Reset (R24, R125, R9) -/

theorem test_reset :
    columns State.reset = (.idle, 0, 0x01, 0) ∧ State.reset.inputs = [0] ∧ State.reset.weights = [0] ∧
    State.reset.bias = 0 ∧ State.reset.cfg = .refSFull := by decide

/-- R9: the derived columns `K`, `M`, `A`, `F` of the reference instances; each is valid (R8). -/
theorem test_reference_instances :
    [Config.refSFull, .refSMin, .refV4Full, .refV8Full, .refV8Min, .refV16Full].map
      (fun c => (c.lanesPerReg, c.operandRegs, c.valid)) =
      [(1, 1, true), (1, 1, true), (4, 1, true), (4, 2, true), (4, 2, true), (4, 4, true)] ∧
    [Config.refV4Full, .refV8Full, .refV8Min, .refV16Full].map (fun c => (c.accWidth, c.finalWidth)) =
      [(18, 19), (19, 20), (19, 20), (20, 21)] := by decide

/-- R8: one configuration refused for each bound. -/
theorem test_invalid_configurations :
    [(⟨.vector, .full, 0, 8, 8, 0, 32⟩ : Config), ⟨.vector, .full, 4, 0, 8, 0, 32⟩, ⟨.vector, .full, 4, 5, 8, 0, 32⟩,
      ⟨.vector, .full, 257, 8, 8, 0, 32⟩, ⟨.vector, .full, 4, 8, 0, 0, 32⟩, ⟨.vector, .full, 4, 8, 33, 0, 32⟩,
      ⟨.vector, .full, 4, 8, 8, 0, 0⟩, ⟨.vector, .full, 4, 8, 8, 0, 33⟩].map Config.valid =
      [false, false, false, false, false, false, false, false] ∧ widest.valid = true := by decide

/-! ### Bus operations (95_test_vectors.md section 2.1) -/

theorem test_rdControl_B4 : after State.readOut (exec .rdControl (scalarAt .refSFull .idle 0xF8)) =
    some (some 0x000000F8) := by decide
theorem test_wrControl_B4 : after State.control (exec (.wrControl 0x000001F8) State.reset) = some 0xF8 := by decide
theorem test_rdStatus_B1 : after State.readOut (exec .rdStatus State.reset) = some (some 0x00000001) := by decide
theorem test_rdStatus_B2 : after State.readOut (exec .rdStatus (State.powerOn .refSMin)) =
    some (some 0x00000003) := by decide
theorem test_wrStatus_B8 : after id (exec (.wrStatus 0x000000FF) State.reset) = some State.reset := by decide
theorem test_rdBias_B10 : after State.readOut (exec .rdBias v8b) = some (some 0x0000FFFB) := by decide
theorem test_wrBias_B10 : after State.bias (exec (.wrBias 0xFFFFFFFB) v8b) = some 0xFFFB := by decide
theorem test_wrBias_B11 : after State.bias (exec (.wrBias 0x0000019C) (State.powerOn .refV4Full)) =
    some 0x9C := by decide
theorem test_rdResult_B19 : after State.readOut (exec .rdResult { v8b with result := 0xFFF8 }) =
    some (some 0x0000FFF8) := by decide
theorem test_wrResult_B9 : after id (exec (.wrResult 0xDEADBEEF) State.reset) = some State.reset := by decide
theorem test_rdInputs_B13 : after State.readOut (exec (.rdInputs 1) v8b) = some (some 0xF8F9FAFB) := by decide
theorem test_wrInputs_B13 : after State.inputs (exec (.wrInputs 1 0xF8F9FAFB) (State.powerOn .refV8Full)) =
    some [0, 0xF8F9FAFB] := by decide
theorem test_rdWeights_P6 : after State.readOut (exec (.rdWeights 3) v16a) = some (some 0xFF01FF01) := by decide
theorem test_wrWeights_B16 : after State.weights (exec (.wrWeights 3 0xFF01FF01) (State.powerOn .refV16Full)) =
    some [0, 0, 0, 0xFF01FF01] := by decide
theorem test_rdUnmapped_B15 :
    after State.readOut (exec (.rdUnmapped04 0) State.reset) = some (some (Config.draw32 0)) ∧
    after State.readOut (exec (.rdUnmapped08 0) State.reset) = some (some (Config.draw32 0)) ∧
    after State.readOut (exec (.rdUnmapped10 0) State.reset) = some (some (Config.draw32 0)) ∧
    after State.readOut (exec (.rdUnmapped20 0) State.reset) = some (some (Config.draw32 0)) ∧
    after State.readOut (exec (.rdUnmappedC0 63) State.reset) = some (some (Config.draw32 0)) ∧
    after State.readOut (exec (.rdUnmappedOperand .inputs 1) State.reset) = some (some (Config.draw32 0)) :=
  ⟨rfl, rfl, rfl, rfl, rfl, rfl⟩
theorem test_wrUnmapped_B14 :
    after id (exec (.wrUnmapped04 0 1) State.reset) = some State.reset ∧
    after id (exec (.wrUnmapped08 0 1) State.reset) = some State.reset ∧
    after id (exec (.wrUnmapped10 0 1) State.reset) = some State.reset ∧
    after id (exec (.wrUnmapped20 0 1) State.reset) = some State.reset ∧
    after id (exec (.wrUnmappedC0 0 1) State.reset) = some State.reset ∧
    after id (exec (.wrUnmappedOperand .inputs 2 1) (State.powerOn .refV8Full)) = some (State.powerOn .refV8Full) := by decide

/-! ### Lanes (section 2.2) -/

theorem test_pack_lanes :
    packLanes [1, -2, 127, -128, 5] 8 = [0x807FFE01, 0x00000005] ∧ packLanes [-1, 2] 16 = [0x0002FFFF] ∧
    packLanes [7, -8, 3, -4, 0, 1, -1, 2, 5] 4 = [0x2F10C387, 0x00000005] ∧
    packLanes [-2147483648] 32 = [0x80000000] ∧ packLanes [300, -129] 8 = [0x00007F2C] := by decide
theorem test_unpack_lane :
    unpackLane 0x807FFE01 1 8 = -2 ∧ unpackLane 0x807FFE01 3 8 = -128 ∧ unpackLane 0x00000005 4 8 = 5 ∧
    unpackLane 0x2F10C387 1 4 = -8 ∧ unpackLane 0x2F10C387 7 4 = 2 ∧ unpackLane 0xFFFFFFFF 5 8 = -1 ∧
    unpackLane 0x80000000 0 32 = -2147483648 := by decide

/-! ### SMAC (section 2.3) -/

theorem test_smac_scenarios :
    smac 0x00010000 0x00020000 0x00010000 = 0x00030000 ∧ smac 0xFFFF0000 0x00020000 0x00008000 = 0xFFFE8000 ∧
    smac 0xFFFE0000 0xFFFD0000 0xFFFF0000 = 0x00050000 ∧ smac 0xFFFF8000 0x00018000 0xFFFFFFFF = 0xFFFF3FFF := by
  decide
theorem test_smac_floors :
    smac 0x00000001 0x00000001 0 = 0 ∧ smac 0x00000001 0xFFFFFFFF 0 = 0xFFFFFFFF ∧
    smac 0x00000003 0x00008000 0 = 0x00000001 ∧ smac 0xFFFFFFFD 0x00008000 0 = 0xFFFFFFFE ∧
    smac 0x0000FFFF 0x0000FFFF 0 = 0x0000FFFE := by decide
theorem test_smac_wraps :
    smac 0x7FFF0000 0x00010000 0x00010000 = 0x80000000 ∧ smac 0x7FFFFFFF 0x7FFFFFFF 0 = 0xFFFF0000 ∧
    smac 0x80000000 0x80000000 0x00000005 = 0x00000005 ∧ smac 0x80000000 0x7FFFFFFF 0x7FFFFFFF = 0x80007FFF ∧
    smac 0x80000000 0x00010000 0x80000000 = 0x00000000 := by decide
theorem test_exec_smac_F8 : after columns (exec .smac (scalarAt .refSFull .compute 0x00)) =
    some (.finish, 0x00, 0x02, 0x00030000) := by decide
theorem test_exec_smac_M6 : after columns (exec .smac (scalarAt .refSMin .compute 0x01)) =
    some (.idle, 0x00, 0x03, 0x00030000) := by decide

/-! ### VDOT (section 2.4) -/

theorem test_vdot_V4 :
    vdot .refV4Full [0x04030201] [0x01010101] 0x00 = 0x0000000A ∧
    vdot .refV4Full [0x04FD02FF] [0xF807FA05] 0x9C = 0xFFFFFF56 ∧
    vdot .refV4Full [0x80808080] [0x80808080] 0x7F = 0x0001007F ∧
    vdot .refV4Full [0x80808080] [0x7F7F7F7F] 0x80 = 0xFFFF0180 ∧
    vdot .refV4Full [0x00000000] [0x00000000] 0xFF = 0xFFFFFFFF := by decide
theorem test_vdot_V8 :
    vdot .refV8Full [0x04030201, 0x08070605] [0x05060708, 0x01020304] 0x0010 = 0x0008 ∧
    vdot .refV8Full [0x80808080, 0x80808080] [0x80808080, 0x80808080] 0x7FFF = 0x27FF ∧
    vdot .refV8Full [0x80808080, 0x80808080] [0x7F7F7F7F, 0x7F7F7F7F] 0x8000 = 0xD840 ∧
    vdot .refV8Full [0x00000001, 0x00000000] [0x000000FF, 0x00000000] 0x0000 = 0xFFFF ∧
    vdot .refV8Full [0x00000003, 0x00000000] [0x00000005, 0x00000000] 0x0000 = 0x0000 := by decide
theorem test_vdot_odd_levels :
    vdot vx1 [0x00030201] [0x00060504] 0x07 = 0x00000027 ∧
    vdot ⟨.vector, .full, 5, 8, 8, 0, 8⟩ [0x04030201, 0x00000005] [0x01010101, 0x00000001] 0x00 = 0x0F ∧
    vdot ⟨.vector, .full, 7, 8, 8, 0, 16⟩ [0x04030201, 0x00070605] [0xFFFFFFFF, 0x00FFFFFF] 0x00 = 0xFFE4 ∧
    vdot ⟨.vector, .full, 1, 8, 8, 0, 16⟩ [0x00000080] [0x00000080] 0x80 = 0x3F80 ∧
    vdot vx1 [0xFF030201] [0x7F060504] 0x07 = 0x00000027 := by decide
theorem test_vdot_other_shapes :
    vdot ⟨.vector, .full, 4, 16, 16, 0, 32⟩ [0x7FFF8000, 0xFC1803E8] [0x7FFF8000, 0x03E8FC18] 0x8000 = 0x7FDFFB81 ∧
    vdot ⟨.vector, .full, 8, 4, 8, 2, 8⟩ [0x2F10C387] [0x2F654D87] 0xFF = 0x18 ∧
    vdot ⟨.vector, .full, 4, 8, 8, 0, 8⟩ [0x0A0A0A0A] [0x0A0A0A0A] 0x00 = 0x90 := by decide
theorem test_reduction_levels :
    pairLevel [4, 10, 18] = [14, 18] ∧ pairLevel [1, 2, 3, 4, 5] = [3, 7, 5] ∧ pairLevel [3, 7, 5] = [10, 5] ∧
    treeReduce [1, 2, 3, 4, 5] = 15 := by decide
theorem test_exec_vdot_V8b : after columns (exec .vdot v8b) = some (.idle, 0x00, 0x03, 0xFFF8) := by decide
theorem test_exec_vdot_V16a : after columns (exec .vdot v16a) = some (.finish, 0x00, 0x02, 0x0005) := by decide

/-! ### TICK, one for each row and command (section 2.5) -/

theorem test_tickFullIdle_F2_F3 :
    after columns (exec .tickFullIdle (scalarAt .refSFull .idle 0x01)) = some (.compute, 0x00, 0x04, 0) ∧
    after columns (exec .tickFullIdle (scalarAt .refSFull .idle 0x02)) = some (.reset, 0x02, 0x00, 0) := by decide
theorem test_tickFullIdle_F4_F5_F7 :
    after columns (exec .tickFullIdle (scalarAt .refSFull .idle 0x03)) = some (.compute, 0x02, 0x04, 0) ∧
    after columns (exec .tickFullIdle (scalarAt .refSFull .idle 0x04)) = some (.idle, 0x04, 0x01, 0) ∧
    after columns (exec .tickFullIdle (scalarAt .refSFull .idle 0xF8)) = some (.idle, 0xF8, 0x01, 0) := by decide
theorem test_tickFullCompute_F9_F10 :
    after columns (exec .tickFullCompute (scalarAt .refSFull .compute 0x01)) =
      some (.finish, 0x00, 0x02, 0x00030000) ∧
    after columns (exec .tickFullCompute (scalarAt .refSFull .compute 0x02)) =
      some (.finish, 0x02, 0x02, 0x00030000) := by decide
theorem test_tickFullFinish_F12_F13 :
    after columns (exec .tickFullFinish (scalarAt .refSFull .finish 0x01)) = some (.idle, 0x00, 0x01, 0) ∧
    after columns (exec .tickFullFinish (scalarAt .refSFull .finish 0x02)) = some (.idle, 0x02, 0x01, 0) := by decide
theorem test_tickFullReset_F15_F16 :
    after columns (exec .tickFullReset (scalarAt .refSFull .reset 0x02)) = some (.idle, 0x02, 0x01, 0) ∧
    after columns (exec .tickFullReset (scalarAt .refSFull .reset 0x03)) = some (.idle, 0x02, 0x01, 0) := by decide
theorem test_tickMinIdle_M3_M4 :
    after columns (exec .tickMinIdle (scalarAt .refSMin .idle 0x02)) = some (.idle, 0x02, 0x03, 0) ∧
    after columns (exec .tickMinIdle (scalarAt .refSMin .idle 0x03)) = some (.compute, 0x02, 0x04, 0) := by decide
theorem test_tickMinCompute_M5 :
    after columns (exec .tickMinCompute (scalarAt .refSMin .compute 0x00)) = some (.idle, 0x00, 0x03, 0x00030000) := by
  decide

/-! ### Commands and power-on (section 2.6, R125) -/

theorem test_start_F6_F12 :
    after columns (exec (.start 0 1 0) (scalarAt .refSFull .idle 0)) = some (.compute, 0x04, 0x04, 0) ∧
    after columns (exec (.start 0 0 0) (scalarAt .refSFull .finish 0)) = some (.idle, 0x00, 0x01, 0) := by decide
theorem test_reset_command_F3_CM8 :
    after columns (exec (.reset 0 0) (scalarAt .refSFull .idle 0)) = some (.reset, 0x02, 0x00, 0) ∧
    after columns (exec (.reset 0 0) (scalarAt .refSMin .idle 0)) = some (.idle, 0x02, 0x03, 0) := by decide
theorem test_nop_F7_F8 :
    after columns (exec (.nop 0b11111 0) (scalarAt .refSFull .idle 0)) = some (.idle, 0xF8, 0x01, 0) ∧
    after columns (exec (.nop 0 0) (scalarAt .refSFull .compute 0)) = some (.finish, 0x00, 0x02, 0x00030000) := by
  decide
theorem test_power_on :
    after columns (exec .powerOn { scalarAt .refSMin .compute 0xFF with powered := false }) =
      some (.idle, 0x00, 0x03, 0) := by decide

/-- One scheduled step: a write word comes off the schedule and is run. -/
theorem test_step_takes_the_next_word :
    after id (step (scheduled [0x00010000_01_40#48, 0#48] State.reset)) =
      some { scheduled [0#48] State.reset with inputs := [0x00010000] } := by decide

/-! ### Witnesses: for each obligation with hypotheses, states and operands that meet them, clause by clause -/

theorem witness_EncodeThenDecodeGivesTheOperation :
    wellFormed ⟨widest, .idle, true⟩ (.rdInputs 63) = true ∧
    wellFormed sel16 (.wrWeights 3 0xFFFFFFFF) = true ∧
    wellFormed sel16 (.rdUnmappedOperand .weights 4) = true ∧
    wellFormed sel16 (.start 0b11111 1 1) = true ∧
    wellFormed ⟨.refV8Min, .compute, true⟩ .vdot = true ∧
    wellFormed ⟨.refSFull, .idle, false⟩ .powerOn = true := by decide
theorem witness_DecodedWordIsTheEncodingOfItsOperation :
    decode sel16 0xFFFFFFFF_01_FF#48 = .ok (.wrUnmappedC0 63 0xFFFFFFFF) ∧
    decode ⟨.refSFull, .compute, true⟩ 0x00000000_03_00#48 = .ok .smac := by decide
theorem witness_ControlPatternDecodesToItsCommand :
    (0xFF#8 &&& 0x01 = 0x01) ∧ (0xFE#8 &&& 0x03 = 0x02) ∧ (0xFC#8 &&& 0x03 = 0x00) := by decide
theorem witness_StepRunsTheDecodedOperation :
    decode (scheduled [0x00000000_00_01#48] State.reset).selection 0x00000000_00_01#48 = .ok .rdStatus ∧
    decode (scheduled [0x00000000_06_00#48] State.reset).selection 0x00000000_06_00#48 = .error .unknownKind ∧
    (State.reset.pending = [] ∧ State.reset.powered = true ∧
      decodeTick State.reset.cfg.fsm State.reset.state = some .tickFullIdle) ∧
    { State.reset with powered := false }.pending = [] := by decide
theorem witness_PlacedWordIsRunByTheNextStep :
    decodeTick State.reset.cfg.fsm State.reset.state = some .tickFullIdle ∧
    decode ⟨.refSFull, .compute, true⟩ 0x00000000_03_00#48 = .ok .smac ∧
    decode ⟨.refSFull, .idle, false⟩ 0x00000000_05_00#48 = .ok .powerOn ∧
    decode ⟨.refSFull, .idle, true⟩ 0x00000001_01_00#48 = .ok (.wrControl 1) := by decide
theorem witness_EveryStepKeepsTheStateWellFormed :
    v8b.Wf ∧ after State.result (step v8b) = some 0xFFF8 ∧
    { State.reset with powered := false }.Wf ∧
    after State.powered (step { State.reset with powered := false }) = some true := by decide
theorem witness_EveryWellFormedOperationCompletes :
    (v8b.Running ∧ wellFormed ⟨v8b.cfg, v8b.state, v8b.powered⟩ .vdot = true) ∧
    (State.reset.Running ∧ State.reset.pending = []) ∧
    ((scheduled [0x00000000_06_00#48] State.reset).Running ∧
      after id (step (scheduled [0x00000000_06_00#48] State.reset)) = none) := by decide
theorem witness_ResultIsWrittenOnlyByTheTickFromCompute :
    (v8b.Running ∧ after State.result (step v8b) = some 0xFFF8) ∧
    ((scheduled [0x00000000_02_01#48] v8b).Running ∧
      after State.result (step (scheduled [0x00000000_02_01#48] v8b)) = some 0xFFF8) ∧
    ((scheduled [0x00000000_00_03#48] v8b).Running ∧
      after State.result (step (scheduled [0x00000000_00_03#48] v8b)) = some 0) := by decide
theorem witness_EachPieceOfStateHasItsWriters :
    (State.reset.Running ∧ after State.control (step State.reset) = some 0) ∧
    ((scheduled [0xFFFFFFFF_01_40#48] State.reset).Running ∧
      after State.inputs (step (scheduled [0xFFFFFFFF_01_40#48] State.reset)) = some [0xFFFFFFFF]) ∧
    after State.control (step (scheduled [0x00000000_02_FF#48] State.reset)) = some 0xFE ∧
    after State.control (step (scheduled [0x00000000_00_00#48] State.reset)) = some 0 := by decide
theorem witness_ModeAndUnnamedControlBitsHaveNoEffect :
    (scalarAt .refSFull .idle 0x01).Running ∧
    (0xFD#8).extractLsb' 0 2 = (scalarAt .refSFull .idle 0x01).control.extractLsb' 0 2 ∧
    after State.state (step (scalarAt .refSFull .idle 0x01)) = some .compute := by decide
theorem witness_ComputeIsEnteredOnlyFromIdleByStart :
    ((scalarAt .refSFull .idle 0x01).Running ∧
      after State.state (step (scalarAt .refSFull .idle 0x01)) = some .compute) ∧
    ((scheduled [0x00000000_02_01#48] (scalarAt .refSMin .idle 0)).Running ∧
      after State.state (step (scheduled [0x00000000_02_01#48] (scalarAt .refSMin .idle 0))) = some .compute) ∧
    ((scheduled [0x00000000_04_00#48] (scalarAt .refSMin .idle 0x01)).Running ∧
      after State.state (step (scheduled [0x00000000_04_00#48] (scalarAt .refSMin .idle 0x01))) = some .compute) := by
  decide
theorem witness_HostAccessesBetweenTicksNeverMoveTheEngine :
    (scheduled ([0x00000001_01_00#48, 0x00000000_00_FF#48] ++ [0x00000000_04_00#48]) v8b).Running ∧
    ∀ w ∈ [0x00000001_01_00#48, 0x00000000_00_FF#48],
      kindOf w = kindWrite ∨ (kindOf w = kindRead ∧ dataOf w = 0) := by
  refine ⟨by decide, ?_⟩
  simp only [List.forall_mem_cons]
  exact ⟨.inl (by decide), .inr (by decide), by simp⟩
theorem witness_BusReadAnswersTheAddressedRegister :
    (0x03#8).toNat = 0x03 ∧ (0x7F#8).toNat = 0x40 + 63 ∧ (0xBF#8).toNat = 0x80 + 63 ∧ widest.operandRegs = 64 ∧
    (0x40 + Config.refSFull.operandRegs ≤ (0x41#8).toNat) ∧ (0x80 + Config.refSFull.operandRegs ≤ (0xBF#8).toNat) ∧
    (0x04 ≤ (0x3F#8).toNat ∧ (0x3F#8).toNat < 0x40) ∧ 0xC0 ≤ (0xC0#8).toNat := by decide
theorem witness_BusWriteChangesOnlyTheAddressedRegister :
    (0x02#8).toNat = 0x02 ∧ (0x43#8).toNat = 0x40 + 3 ∧ 3 < Config.refV16Full.operandRegs ∧
    (0x80#8).toNat = 0x80 + 0 ∧ (0x01#8).toNat = 0x01 ∧
    (0x40 + Config.refV16Full.operandRegs ≤ (0x44#8).toNat ∧ (0x44#8).toNat < 0x80) ∧ 0xC0 ≤ (0xFF#8).toNat := by
  decide
theorem witness_StatusReadsTheControlStateAndIgnoresWrites : 3 ≤ 3 ∧ 3 ≤ 31 := by decide
theorem witness_InputsRegisterIsReadAndWrittenWhole :
    (v16a.Running ∧ (3#6).toNat < v16a.cfg.operandRegs ∧ v16a.cfg.kind = .vector) ∧
    v16a.state = .compute ∧ v16a.pending = [] := by decide
theorem witness_WeightsRegisterIsReadAndWrittenWhole :
    ((scalarAt .refSMin .compute 0).Running ∧ (0#6).toNat < (scalarAt .refSMin .compute 0).cfg.operandRegs) ∧
    (v16a.Running ∧ (3#6).toNat < v16a.cfg.operandRegs ∧ v16a.cfg.kind = .vector) ∧
    v16a.state = .compute ∧ v16a.pending = [] := by decide
theorem witness_BiasKeepsItsLowBits : v8b.Wf ∧ (State.powerOn ⟨.vector, .full, 1, 1, 1, 0, 1⟩).Wf := by decide
theorem witness_NarrowRegisterWritesStoreTheLowBits :
    (0xFFFFFFFB#32).toNat % 2 ^ v8b.cfg.biasWidth = (0x0000FFFB#32).toNat % 2 ^ v8b.cfg.biasWidth ∧
    (v8b.cfg.valid = true ∧ 0xFFFF < 2 ^ v8b.cfg.biasWidth) ∧
    (0x000001F8#32).toNat % 256 = (0x000000F8#32).toNat % 256 := by decide
theorem witness_ResultIsReadOnlyAndStableBetweenCommits :
    v8b.Wf ∧
    ((scalarAt .refSFull .reset 0x02).Running ∧ (scalarAt .refSFull .reset 0x02).state ≠ .compute ∧
      after State.state (step (scalarAt .refSFull .reset 0x02)) = some .idle) ∧
    ((scheduled [0xDEADBEEF_01_03#48] v8b).Running ∧ (scheduled [0xDEADBEEF_01_03#48] v8b).state = .compute ∧
      (scheduled [0xDEADBEEF_01_03#48] v8b).pending.head?.map kindOf = some kindWrite ∧
      after State.result (step (scheduled [0xDEADBEEF_01_03#48] v8b)) = some 0) := by decide
theorem witness_UnmappedNumbersAnswerAFreeValueAndIgnoreWrites :
    v16a.cfg.operandRegs ≤ (4#6).toNat ∧ State.reset.cfg.operandRegs ≤ (63#6).toNat := by decide
theorem witness_ReadsHaveNoSideEffect : after State.draws (exec (decodeRead 1 0x00) State.reset) =
    some State.reset.draws := by decide
theorem witness_UnpackLaneSignExtendsItsSlice : (1 ≤ 1 ∧ 32 % 1 = 0) ∧ 1 ≤ 32 ∧ 32 % 32 = 0 := by decide
theorem witness_PackLanesPlacesEachWrappedValue :
    1 ≤ 8 ∧ 32 % 8 = 0 ∧ 1 < (packLanes [1, -2, 127, -128, 300] 8).length := by decide
theorem witness_PackAndUnpackAreInverse :
    1 ≤ 8 ∧ 32 % 8 = 0 ∧ (∀ z ∈ ([-128, 127] : List Int), FitsSigned 8 z) ∧ 1 < [-128, 127].length := by decide
theorem witness_SmacCommitsTheScaledProductPlusBias :
    (scalarAt .refSFull .compute 0x07).Running ∧ (scalarAt .refSFull .compute 0x07).cfg.kind = .scalar ∧
    (scalarAt .refSFull .compute 0x07).state = .compute := by decide
theorem witness_SmacObeysItsIntegerLaws :
    (0x80000000#32).toInt * (0x80000000#32).toInt = 2 ^ 62 ∧ (0x00010000#32 = 0x00010000) ∧ (0#32 = 0) := by decide
theorem witness_SmacIsExactInsideTheDocumentedRange :
    |(0x00800000#32).toInt| ≤ 2 ^ 23 ∧ |(0xFF800000#32).toInt| ≤ 2 ^ 23 := by decide
theorem witness_LaneProductsAreExactAndBounded :
    Config.refV8Min.valid = true ∧ Config.refV8Min.kind = .vector ∧ 7 < Config.refV8Min.n ∧
    lane .refV8Min [0x80808080, 0x80808080] 7 * lane .refV8Min [0x80808080, 0x80808080] 7 =
      2 ^ (2 * Config.refV8Min.w - 2) := by decide
theorem witness_ReductionTreePairsAdjacentElements :
    2 < (pairLevel [1, 2, 3, 4, 5]).length ∧ 1 < [1, 2, 3, 4, 5].length ∧ 2 < ceilLog2 [1, 2, 3, 4, 5].length := by
  decide
theorem witness_ReductionTreeIsThePlainSum :
    vx1.valid = true ∧ vx1.kind = .vector ∧
    (32 : Int) ∈ pairLevel^[2] (laneProducts vx1 [0x00030201] [0x00060504]) := by decide
theorem witness_FinalFitsItsWidthAndHighBitsCannotMatter :
    Config.refV16Full.valid = true ∧ Config.refV16Full.kind = .vector ∧
    (0x8000#32).toNat < 2 ^ Config.refV16Full.b ∧ 1 ≤ 20 ∧ Config.refV16Full.shift + Config.refV16Full.r ≤ 20 := by
  decide
theorem witness_NarrowingTakesItsBitSlice :
    (Config.refV4Full.valid = true ∧ Config.refV4Full.kind = .vector) ∧
    FitsSigned Config.refV4Full.r (asr (-65152) Config.refV4Full.shift) ∧
    Config.refV4Full.shift = 0 ∧ Config.refV4Full.finalWidth ≤ Config.refV4Full.r ∧
    FitsSigned Config.refV4Full.finalWidth (-65152) := by decide
theorem witness_VdotCommitsTheNarrowedDotProduct :
    (v8b.Running ∧ v8b.cfg.kind = .vector ∧ v8b.state = .compute) ∧
    v16a.Running ∧ v16a.cfg.kind = .vector ∧ v16a.state = .compute := by decide

/-- Vectors VX1 and VX9: the same lanes below `N`, other bits above. -/
theorem witness_VdotReadsOnlyItsLanesAndBias :
    (∀ i, i < vx1.n → lane vx1 [0x00030201] i = lane vx1 [0xFF030201] i ∧
      lane vx1 [0x00060504] i = lane vx1 [0x7F060504] i) ∧
    after State.result (exec .vdot (vectorAt vx1 .compute [0x00030201] [0x00060504] 7)) = some 0x27 ∧
    after State.result (exec .vdot (vectorAt vx1 .compute [0xFF030201] [0x7F060504] 7)) = some 0x27 := by decide
theorem witness_TickFullIdleFollowsTheCommand :
    (scalarAt .refSFull .idle 0x03).cfg.fsm = .full ∧ (scalarAt .refSFull .idle 0x03).state = .idle := by decide
theorem witness_TickFullComputeCommitsAndFinishes :
    (scalarAt .refSFull .compute 0x03).cfg.fsm = .full ∧ (scalarAt .refSFull .compute 0x03).state = .compute := by
  decide
theorem witness_TickFullFinishAndResetReturnToIdle :
    (scalarAt .refSFull .finish 0x03).cfg.fsm = .full ∧ (scalarAt .refSFull .finish 0x03).state = .finish ∧
    (scalarAt .refSFull .reset 0x02).state = .reset := by decide
theorem witness_TickMinimalStartsLatchesAndReturns :
    (scalarAt .refSMin .idle 0x03).cfg.fsm = .minimal ∧ (scalarAt .refSMin .idle 0x03).state = .idle ∧
    v8b.cfg.fsm = .minimal ∧ v8b.state = .compute := by decide
theorem witness_UnselectedRowsAreRefused :
    ¬ (v8b.cfg.fsm = .full ∧ v8b.state = .idle) ∧ ¬ (v8b.cfg.fsm = .full ∧ v8b.state = .compute) ∧
    ¬ (v8b.cfg.fsm = .full ∧ v8b.state = .finish) ∧ ¬ (v8b.cfg.fsm = .full ∧ v8b.state = .reset) ∧
    ¬ (v8b.cfg.fsm = .minimal ∧ v8b.state = .idle) ∧
    ¬ (State.reset.cfg.fsm = .minimal ∧ State.reset.state = .compute) ∧
    ¬ (v8b.cfg.kind = .scalar ∧ v8b.state = .compute) ∧
    ¬ (State.reset.cfg.kind = .vector ∧ State.reset.state = .compute) := by decide
theorem witness_TickRowsFollowTheTransitionTable :
    (scalarAt .refSFull .idle 0x03).Running ∧ (scalarAt .refSFull .idle 0x02).Running ∧
    (scalarAt .refSFull .idle 0xFC).Running ∧ (scalarAt .refSMin .compute 0x00).Running ∧
    (scalarAt .refSFull .finish 0x00).Running ∧ (scalarAt .refSFull .reset 0x00).Running ∧
    (0x03#8).getLsbD 0 = true ∧ (0x02#8).getLsbD 1 = true ∧ (0xFC#8).getLsbD 1 = false := by decide
theorem witness_CommandComputeAndTickRowsAreOneStep : v8b.Running ∧ v8b.state = .compute := by decide
theorem witness_StartBeginsAnOperationInIdle :
    (scalarAt .refSMin .idle 0x00).Running ∧ (scalarAt .refSMin .idle 0x00).state = .idle ∧
    (scalarAt .refSMin .idle 0x00).pending = [] := by decide
theorem witness_SpuriousStartIsDropped :
    ((scalarAt .refSFull .finish 0x00).Running ∧ (scalarAt .refSFull .finish 0x00).state ≠ .idle) ∧
    ((scalarAt .refSFull .compute 0x00).Running ∧ (scalarAt .refSFull .compute 0x00).state ≠ .idle) ∧
    ((scalarAt .refSFull .reset 0x00).Running ∧ (scalarAt .refSFull .reset 0x00).state ≠ .idle) ∧
    v8b.Running ∧ v8b.state ≠ .idle := by decide
theorem witness_ResetCommandActsOnlyInIdleOfTheFullVariant :
    (scalarAt .refSFull .idle 0x00).Running ∧ v8b.Running := by decide
theorem witness_NopFollowsTheUnconditionalTransition :
    (scalarAt .refSFull .reset 0x00).Running ∧ v8b.Running := by decide
theorem witness_OperationTakesItsFixedNumberOfTicks :
    ((scalarAt .refSFull .idle 0x01).Running ∧ (scalarAt .refSFull .idle 0x01).pending = [] ∧
      (scalarAt .refSFull .idle 0x01).control.getLsbD 0 = true ∧ (scalarAt .refSFull .idle 0x01).cfg.fsm = .full) ∧
    (scalarAt .refSMin .idle 0x01).Running ∧ (scalarAt .refSMin .idle 0x01).cfg.fsm = .minimal := by decide
theorem witness_EngineIsBackInIdleWithinTwoTicks :
    (scalarAt .refSFull .compute 0xFF).Running ∧ (scalarAt .refSFull .compute 0xFF).pending = [] ∧
    (scalarAt .refSFull .compute 0xFF).state ≠ .idle := by decide
theorem witness_HeldResetAlternatesForEver :
    (scalarAt .refSFull .idle 0x02).Running ∧ (scalarAt .refSFull .idle 0x02).cfg.fsm = .full ∧
    (scalarAt .refSFull .idle 0x02).pending = [] ∧ (scalarAt .refSFull .idle 0x02).state = .idle ∧
    (scalarAt .refSFull .idle 0x02).control.getLsbD 0 = false ∧
    (scalarAt .refSFull .idle 0x02).control.getLsbD 1 = true := by decide

/-- Program P5, steps 20 to 24: after the commit, writes of RESULT and of CONTROL without START, a read, a command. -/
def p5 : State :=
  scheduled [0xDEADBEEF_01_03#48, 0x000001F8_01_00#48, 0x00000000_00_03#48, 0x00000000_02_02#48]
    { scalarAt .refSFull .finish 0x04 with result := 0x00030000 }
theorem witness_CommittedResultSurvivesUntilTheNextStart :
    (p5.Running ∧ p5.state ≠ .compute ∧ p5.control.getLsbD 0 = false ∧
      after State.result (runSteps 4 p5) = some 0x00030000) ∧
    ∀ w ∈ p5.pending, (kindOf w = kindCommand → (numberOf w).getLsbD 0 = false) ∧
      (kindOf w = kindWrite → numberOf w = 0 → (dataOf w).getLsbD 0 = false) := by
  refine ⟨by decide, ?_⟩
  simp only [p5, scheduled, List.forall_mem_cons]
  exact ⟨by decide, by decide, by decide, by decide, by simp⟩
theorem witness_PowerOnCreatesTheIdleState :
    { v8b with powered := false }.powered = false ∧ { v8b with powered := false }.cfg.valid = true := by decide
theorem witness_PowerOnIsRefusedTwiceAndForInvalidConfigurations :
    State.reset.powered = true ∧
    ({ State.reset with powered := false, cfg := ⟨.vector, .full, 4, 5, 8, 0, 32⟩ } : State).cfg.valid = false := by
  decide
theorem witness_PoweredOnEngineRestsUntilTheHostActs : Config.refV8Min.valid = true := by decide
theorem witness_ResetCommandKeepsTheRegisters :
    (scalarAt .refSFull .idle 0x02).Running ∧ (scalarAt .refSFull .idle 0x02).pending = [] ∧
    (scalarAt .refSFull .idle 0x02).state = .idle ∧ (scalarAt .refSFull .idle 0x02).control.getLsbD 0 = false ∧
    (scalarAt .refSFull .idle 0x02).control.getLsbD 1 = true ∧
    after State.state (step (scalarAt .refSFull .idle 0x02)) = some .reset ∧
    after State.state (step { scalarAt .refSFull .reset 0x02 with pending := [] }) = some .idle := by decide

end Sys2Proof.Tests
end

section
/-! SUPPORT. The statements on what the hardware is and what its state keeps: a valid configuration, the shape of the
state, and who writes what. -/

namespace Sys2Proof.Machine

variable {s t : State}

/-! ### The shape of the state -/

/-- The fetch changes the schedule alone, of which the shape does not speak. -/
theorem fetch_wf (h : s.Wf) : (fetch s).2.Wf := by
  rw [fetch_state]
  exact h

/-- POWERON completes only for a valid configuration (R113), and its result then has the fields of `PowerOn()`. -/
theorem exec_powerOn_wf (h : exec .powerOn s = .next t) : t.Wf := by
  simp only [exec, execPowerOn] at h
  split_ifs at h with _ hv
  cases h
  exact powerOn_wf hv

/-- The invariant's step for a running engine: reads, writes and the three forms of the tick. -/
theorem step_wf_of_powered (hs : s.Wf) (hp : s.powered = true) (h : step s = .next t) : t.Wf := by
  have hu := fetch_wf hs
  obtain ⟨-, -, hread⟩ | ⟨-, hwrite⟩ | ⟨-, -, hcommand⟩ | ⟨-, -, hcompute⟩ | ⟨-, htick⟩ := step_cases hp h
  · exact exec_decodeRead_wf hu hread
  · exact exec_decodeWrite_wf hu hwrite
  · exact sampleTick_wf hu hcommand
  · exact sampleTick_wf hu hcompute
  · exact sampleTick_wf hu htick

/-! ### Who writes what -/

/-- The kind of a scheduled word, other than a tick, is that of the word the step runs: with nothing scheduled a
powered engine ticks. -/
theorem scheduled_kind_iff {k : BitVec 8} (hp : s.powered = true) (hk : k ≠ kindTick) :
    s.pending.head?.map kindOf = some k ↔ kindOf (fetch s).1 = k := by
  cases hn : s.pending with
  | nil => simp [fetch_nil hn, unscheduled, hp, Laws.RowBits.kindOf_stepWord, hk.symm]
  | cons w rest => simp [fetch_cons hn]

/-- What a step of a powered engine does to the state, by the kind of the word it runs: a read touches the host's
side only, a write the registers the host owns, and every other step is a tick, which samples CONTROL itself unless
the word is a command. -/
theorem step_effect (hp : s.powered = true) (h : step s = .next t) :
    (kindOf (fetch s).1 = kindRead ∧
      ∃ o d, t = { s with pending := s.pending.tail, readOut := o, draws := d }) ∨
    (kindOf (fetch s).1 = kindWrite ∧
      ∃ c xs ys b, t = { s with
        pending := s.pending.tail, control := c, inputs := xs, weights := ys, bias := b }) ∨
    (kindOf (fetch s).1 ≠ kindRead ∧ kindOf (fetch s).1 ≠ kindWrite ∧
      ∃ c, (kindOf (fetch s).1 ≠ kindCommand → c = s.control) ∧
        sampleTick c { s with pending := s.pending.tail } = some t) := by
  have hcases := step_cases hp h
  simp only [fetch_state] at hcases
  obtain ⟨hk, -, hread⟩ | ⟨hk, hwrite⟩ | ⟨hk, -, hcommand⟩ | ⟨hk, -, hcompute⟩ | ⟨hk, htick⟩ := hcases
  · obtain ⟨o, d, e⟩ := exec_decodeRead s.cfg.operandRegs (numberOf (fetch s).1) { s with pending := s.pending.tail }
    rw [e] at hread
    cases hread
    exact .inl ⟨hk, o, d, rfl⟩
  · obtain ⟨c, xs, ys, b, e, -⟩ := exec_decodeWrite s.cfg.operandRegs (numberOf (fetch s).1) (dataOf (fetch s).1)
      { s with pending := s.pending.tail }
    rw [e] at hwrite
    cases hwrite
    exact .inr (.inl ⟨hk, c, xs, ys, b, rfl⟩)
  · exact .inr (.inr ⟨by rw [hk]; decide, by rw [hk]; decide, _, fun hne => absurd hk hne, hcommand⟩)
  · exact .inr (.inr ⟨by rw [hk]; decide, by rw [hk]; decide, _, fun _ => rfl, hcompute⟩)
  · exact .inr (.inr ⟨by rw [hk]; decide, by rw [hk]; decide, _, fun _ => rfl, htick⟩)

/-- Consuming START leaves bits 7:1 (R91). -/
theorem and_0xFE_extractLsb' (c : Flags8) : (c &&& 0xFE).extractLsb' 1 7 = c.extractLsb' 1 7 := by revert c; decide

/-- Consuming START clears bit 0 (R91). -/
theorem and_0xFE_getLsbD_zero (c : Flags8) : (c &&& 0xFE).getLsbD 0 = false := by revert c; decide

/-! ### Validity of a configuration -/

/-- A vector engine has at most `m` operand registers in each group exactly when its lanes fit in `m` words (R7). -/
theorem operandRegs_le_iff {c : Config} {m : Nat} (hv : c.kind = .vector) (hw : 1 ≤ c.w) (hd : c.w ∣ 32) :
    c.operandRegs ≤ m ↔ c.n ≤ m * (32 / c.w) := by
  have hk : 0 < 32 / c.w := Nat.div_pos (Nat.le_of_dvd (by decide) hd) hw
  simp only [Config.operandRegs, Config.lanesPerReg, hv]
  rw [Nat.div_le_iff_le_mul_add_pred hk, Nat.mul_comm (32 / c.w) m]
  omega

end Sys2Proof.Machine

open Sys2Proof Sys2Proof.Machine

/-- Settles O7: a running engine's step is one of five kinds, each keeping the shape; before power-on only POWERON
completes, and it creates the shape. -/
theorem everyStepKeepsTheStateWellFormed : Obligations.EveryStepKeepsTheStateWellFormed := by
  intro s t hs h
  cases hp : s.powered with
  | false => exact exec_powerOn_wf (step_unpowered hp h)
  | true => exact step_wf_of_powered hs hp h

/-- Settles O11, by the effect of a step on the state: the read, the write, the tick. -/
theorem eachPieceOfStateHasItsWriters : Obligations.EachPieceOfStateHasItsWriters := by
  intro s t ⟨_, hp⟩ h
  have hread := scheduled_kind_iff (s := s) (k := kindRead) hp (by decide)
  have hwrite := scheduled_kind_iff (s := s) (k := kindWrite) hp (by decide)
  have hcommand := scheduled_kind_iff (s := s) (k := kindCommand) hp (by decide)
  simp only [ne_eq, hread, hwrite, hcommand]
  obtain ⟨hk, o, d, rfl⟩ | ⟨hk, c, xs, ys, b, rfl⟩ | ⟨hr, hw, c, hc, ht⟩ := step_effect hp h
  · simp [hk, hp]
  · have hne : ¬ kindWrite = kindRead := by decide
    simp [hk, hp, hne]
  · obtain ⟨st, -, rfl⟩ := sampleTick_eq_some.1 ht
    have hbits : c = s.control → (c &&& 0xFE).extractLsb' 1 7 = s.control.extractLsb' 1 7 :=
      fun e => e ▸ and_0xFE_extractLsb' c
    exact ⟨fun _ => ⟨rfl, rfl, rfl⟩, fun hhost => absurd hhost (by simp [hr, hw]), fun _ hcmd => hbits (hc hcmd),
      fun _ _ => and_0xFE_getLsbD_zero c, fun hread => absurd hread hr, rfl, hp⟩

/-- Settles O57: for a vector engine the bound on `M` is the bound on `N`; a scalar engine is always valid. -/
theorem configurationValidityIsTheRule : Obligations.ConfigurationValidityIsTheRule := by
  intro c
  cases hk : c.kind with
  | scalar => simp [Config.valid, hk]
  | vector =>
    have hregs : 1 ≤ c.w → c.w ∣ 32 → (c.operandRegs ≤ 64 ↔ c.n ≤ 64 * (32 / c.w)) := operandRegs_le_iff hk
    simp only [Config.valid, hk, Bool.and_eq_true, decide_eq_true_eq, ← Nat.dvd_iff_mod_eq_zero, and_assoc,
      reduceCtorEq, false_or, true_and]
    constructor
    · rintro ⟨hn, hw, hd, hm, hwidths⟩
      exact ⟨hn, hw, hd, (hregs hw hd).1 hm, hwidths⟩
    · rintro ⟨hn, hw, hd, hm, hwidths⟩
      exact ⟨hn, hw, hd, (hregs hw hd).2 hm, hwidths⟩
end

section
/-! SUPPORT. The statements on the state an engine begins in and on the view its host has of it: STATUS bit by bit,
and what POWERON creates. -/

namespace Sys2Proof.Machine

/-! ### STATUS, bit by bit (R48) -/

/-- READY is bit 0 of STATUS. -/
theorem status_getLsbD_zero (f : Fsm) (st : ControlState) : (status f st).getLsbD 0 = ready f st := by
  rw [status, BitVec.getLsbD_append]
  simp

/-- DONE is bit 1 of STATUS. -/
theorem status_getLsbD_one (f : Fsm) (st : ControlState) : (status f st).getLsbD 1 = done f st := by
  rw [status, BitVec.getLsbD_append, BitVec.getLsbD_append]
  simp

/-- BUSY is bit 2 of STATUS. -/
theorem status_getLsbD_two (f : Fsm) (st : ControlState) : (status f st).getLsbD 2 = busy f st := by
  rw [status, BitVec.getLsbD_append, BitVec.getLsbD_append, BitVec.getLsbD_append]
  simp

/-- The valid pulse is the BUSY flag, whatever the variant (R21). -/
theorem validPulse_eq_busy (f : Fsm) (st : ControlState) : validPulse st = busy f st := by cases f <;> rfl

/-- STATUS in IDLE: READY alone in the full variant, READY and DONE in the minimal (R96, R101). -/
theorem status_idle (f : Fsm) : status f .idle = if f = .full then 0x01 else 0x03 := by cases f <;> decide

/-! ### POWERON -/

/-- POWERON creates the state of `PowerOn()` for a valid configuration; the host's side stays (R125, R24). -/
theorem exec_powerOn {s : State} (hp : s.powered = false) (hv : s.cfg.valid = true) :
    exec .powerOn s = .next { State.powerOn s.cfg with
      pending := s.pending, draws := s.draws, readOut := s.readOut } := by
  simp [exec, execPowerOn, State.powerOn, hp, hv]

end Sys2Proof.Machine

open Sys2Proof Sys2Proof.Machine

/-- Settles O8: the state after reset is `PowerOn()` of `REF_S_FULL`, a valid configuration. -/
theorem resetStateIsWellFormed : Obligations.ResetStateIsWellFormed :=
  ⟨powerOn_wf (c := .refSFull) rfl, rfl⟩

/-- Settles O39: the six rows of the two tables by evaluation, the flags as the bits of STATUS for every state. -/
theorem statusFollowsItsTable : Obligations.StatusFollowsItsTable := by
  refine ⟨by decide, by decide, by decide, by decide, by decide, by decide, ?pulse, ?minimalDone, ?flags⟩
  case pulse =>
    intro st
    rw [status_getLsbD_two]
    exact validPulse_eq_busy .full st
  case minimalDone =>
    intro st
    rw [status_getLsbD_one, done]
  case flags =>
    intro f st
    exact ⟨(status_getLsbD_zero f st).symm, (status_getLsbD_one f st).symm, (status_getLsbD_two f st).symm⟩

/-- Settles O55: POWERON is `PowerOn()`, whose registers are zero by definition and whose STATUS is that of IDLE. -/
theorem powerOnCreatesTheIdleState : Obligations.PowerOnCreatesTheIdleState := by
  intro s hp hv
  exact ⟨exec_powerOn hp hv, rfl, rfl, rfl, rfl, rfl, rfl, status_idle s.cfg.fsm⟩
end

section
/-! SUPPORT. The statements on the step word: what the decoder reads from a word of each kind, that it undoes the
encoder, and that a step runs the word it takes off the schedule. -/

namespace Sys2Proof.Laws

/-! ### The decoder, one equation for each kind of step word (log entry 2) -/

section Kinds

variable {sel : Selection} {w : StepWord}

theorem decode_of_kindRead (hp : sel.powered = true) (hk : kindOf w = kindRead) (hd : dataOf w = 0) :
    decode sel w = .ok (decodeRead sel.cfg.operandRegs (numberOf w)) := by
  simp [decode, hp, hk, hd, kindRead, kindWrite, kindPowerOn]

theorem decode_of_kindWrite (hp : sel.powered = true) (hk : kindOf w = kindWrite) :
    decode sel w = .ok (decodeWrite sel.cfg.operandRegs (numberOf w) (dataOf w)) := by
  simp [decode, hp, hk, kindWrite, kindPowerOn]

theorem decode_of_kindCommand (hp : sel.powered = true) (hk : kindOf w = kindCommand) (hd : dataOf w = 0) :
    decode sel w = .ok (decodeCommand (numberOf w)) := by
  simp [decode, hp, hk, hd, kindRead, kindWrite, kindCommand, kindPowerOn]

theorem decode_computeWord (hp : sel.powered = true) (hs : sel.state = .compute) :
    decode sel (stepWord 0 kindCompute 0) = .ok (decodeCompute sel.cfg.kind) := by
  simp [decode, hp, hs, RowBits.kindOf_stepWord, RowBits.numberOf_stepWord, RowBits.dataOf_stepWord, kindRead,
    kindWrite, kindCommand, kindCompute, kindPowerOn]

theorem decode_tickWord {i : Instr} (hp : sel.powered = true) (hi : decodeTick sel.cfg.fsm sel.state = some i) :
    decode sel (stepWord 0 kindTick 0) = .ok i := by
  simp [decode, hp, hi, RowBits.kindOf_stepWord, RowBits.numberOf_stepWord, RowBits.dataOf_stepWord, kindRead,
    kindWrite, kindCommand, kindCompute, kindTick, kindPowerOn]

/-- The tick word decodes to the TICK row of the variant and the state it is selected by (R45). -/
theorem decode_tickRow {i : Instr} {f : Fsm} {st : ControlState}
    (h : (sel.powered = true ∧ sel.cfg.fsm = f) ∧ sel.state = st) (hi : decodeTick f st = some i) :
    decode sel (stepWord 0 kindTick 0) = .ok i := by
  obtain ⟨⟨hp, rfl⟩, rfl⟩ := h
  exact decode_tickWord hp hi

theorem decode_powerOnWord (hp : sel.powered = false) : decode sel (stepWord 0 kindPowerOn 0) = .ok .powerOn := by
  simp [decode, hp, RowBits.kindOf_stepWord, RowBits.numberOf_stepWord, RowBits.dataOf_stepWord]

/-- A read word decodes to the RD row of its number. -/
theorem decode_readWord {n : RegNum} {i : Instr} (hp : sel.powered = true)
    (h : decodeRead sel.cfg.operandRegs n = i) : decode sel (stepWord 0 kindRead n) = .ok i := by
  rw [decode_of_kindRead hp (RowBits.kindOf_stepWord ..) (RowBits.dataOf_stepWord ..), RowBits.numberOf_stepWord, h]

/-- A write word decodes to the WR row beside the RD row of the same number (R46). -/
theorem decode_writeWord {n : RegNum} {i : Instr} {data : Word} (hp : sel.powered = true)
    (h : decodeRead sel.cfg.operandRegs n = i) : decode sel (stepWord data kindWrite n) = .ok (writeOf data i) := by
  rw [decode_of_kindWrite hp (RowBits.kindOf_stepWord ..), RowBits.numberOf_stepWord, RowBits.dataOf_stepWord,
    decodeWrite_eq_writeOf, h]

/-- A command word decodes to the command its pattern stands for (R52). -/
theorem decode_commandWord {c : Flags8} {i : Instr} (hp : sel.powered = true) (h : decodeCommand c = i) :
    decode sel (stepWord 0 kindCommand c) = .ok i := by
  rw [decode_of_kindCommand hp (RowBits.kindOf_stepWord ..) (RowBits.dataOf_stepWord ..), RowBits.numberOf_stepWord, h]

end Kinds

/-! ### The decoder undoes the encoder -/

/-- Decoding undoes the encoding, row by row: a bus row by its register number, a command by its pattern, a compute
operation or engine step by the selection it is well-formed in. -/
theorem decode_encode {sel : Selection} {i : Instr} (h : wellFormed sel i = true) : decode sel (encode i) = .ok i := by
  cases i with simp only [wellFormed, Bool.and_eq_true, decide_eq_true_eq, Bool.not_eq_true'] at h
  | rdControl => exact decode_readWord h rfl
  | wrControl data => exact decode_writeWord (i := .rdControl) h rfl
  | rdStatus => exact decode_readWord h rfl
  | wrStatus data => exact decode_writeWord (i := .rdStatus) h rfl
  | rdBias => exact decode_readWord h rfl
  | wrBias data => exact decode_writeWord (i := .rdBias) h rfl
  | rdResult => exact decode_readWord h rfl
  | wrResult data => exact decode_writeWord (i := .rdResult) h rfl
  | rdInputs k => exact decode_readWord h.1 (decodeRead_inputs _ k h.2)
  | wrInputs k data => exact decode_writeWord h.1 (decodeRead_inputs _ k h.2)
  | rdWeights k => exact decode_readWord h.1 (decodeRead_weights _ k h.2)
  | wrWeights k data => exact decode_writeWord h.1 (decodeRead_weights _ k h.2)
  | rdUnmapped04 k => exact decode_readWord h (decodeRead_unmapped04 _ k)
  | wrUnmapped04 k data => exact decode_writeWord h (decodeRead_unmapped04 _ k)
  | rdUnmapped08 k => exact decode_readWord h (decodeRead_unmapped08 _ k)
  | wrUnmapped08 k data => exact decode_writeWord h (decodeRead_unmapped08 _ k)
  | rdUnmapped10 k => exact decode_readWord h (decodeRead_unmapped10 _ k)
  | wrUnmapped10 k data => exact decode_writeWord h (decodeRead_unmapped10 _ k)
  | rdUnmapped20 k => exact decode_readWord h (decodeRead_unmapped20 _ k)
  | wrUnmapped20 k data => exact decode_writeWord h (decodeRead_unmapped20 _ k)
  | rdUnmappedC0 k => exact decode_readWord h (decodeRead_unmappedC0 _ k)
  | wrUnmappedC0 k data => exact decode_writeWord h (decodeRead_unmappedC0 _ k)
  | rdUnmappedOperand g k => exact decode_readWord h.1 (decodeRead_unmappedOperand _ g k h.2)
  | wrUnmappedOperand g k data => exact decode_writeWord h.1 (decodeRead_unmappedOperand _ g k h.2)
  | start x mode reset => exact decode_commandWord h (decodeCommand_start x mode reset)
  | reset x mode => exact decode_commandWord h (decodeCommand_reset x mode)
  | nop x mode => exact decode_commandWord h (decodeCommand_nop x mode)
  | smac =>
    obtain ⟨⟨hp, hkind⟩, hs⟩ := h
    exact (decode_computeWord hp hs).trans (by rw [hkind, decodeCompute])
  | vdot =>
    obtain ⟨⟨hp, hkind⟩, hs⟩ := h
    exact (decode_computeWord hp hs).trans (by rw [hkind, decodeCompute])
  | tickFullIdle => exact decode_tickRow h rfl
  | tickFullCompute => exact decode_tickRow h rfl
  | tickFullFinish => exact decode_tickRow h rfl
  | tickFullReset => exact decode_tickRow h rfl
  | tickMinIdle => exact decode_tickRow h rfl
  | tickMinCompute => exact decode_tickRow h rfl
  | powerOn => exact decode_powerOnWord h

end Sys2Proof.Laws

namespace Sys2Proof.Machine

/-! ### The step runs the word the fetch gives -/

variable {s : State} {i : Instr} {w : StepWord} {rest : List StepWord}

/-- The schedule has no part in what the decoder is told. -/
theorem selection_pending (s : State) (ws : List StepWord) : { s with pending := ws }.selection = s.selection := rfl

/-- A scheduled word that decodes is run in the state that is left when it is taken off the schedule. -/
theorem step_of_decode_ok (hn : s.pending = w :: rest) (h : decode s.selection w = .ok i) :
    step s = exec i { s with pending := rest } := by
  simp only [step, fetch_cons hn, selection_pending, h]

/-- A scheduled word that does not decode is refused under its reason. -/
theorem step_of_decode_error {r : Reject} (hn : s.pending = w :: rest) (h : decode s.selection w = .error r) :
    step s = .refused (.undecodable r) := by
  simp only [step, fetch_cons hn, selection_pending, h]

/-- With nothing scheduled the step runs what its unscheduled word decodes to. -/
theorem step_of_unscheduled (hn : s.pending = []) (h : decode s.selection (unscheduled s) = .ok i) :
    step s = exec i s := by
  simp only [step, fetch_nil hn, h]

/-- The step after a placed word is that word's, in the state that can take it. -/
theorem step_placeWord (h : decode (placeWord w s).selection w = .ok i) :
    step (placeWord w s) = exec i { placeWord w s with pending := s.pending } :=
  step_of_decode_ok rfl h

end Sys2Proof.Machine

open Sys2Proof Sys2Proof.Machine

/-- Settles O1, by the decoder's equation for the kind of each row. -/
theorem encodeThenDecodeGivesTheOperation : Obligations.EncodeThenDecodeGivesTheOperation :=
  fun _ _ h => Laws.decode_encode h

/-- Settles O5: the scheduled word and the unscheduled one are run through the decoder. -/
theorem stepRunsTheDecodedOperation : Obligations.StepRunsTheDecodedOperation := by
  refine ⟨fun s w rest i => step_of_decode_ok, fun s w rest r => step_of_decode_error, ?ticks, ?powersOn⟩
  case ticks =>
    intro s i hn hp hi
    refine step_of_unscheduled hn ?_
    rw [unscheduled, if_pos hp]
    exact Laws.decode_tickWord hp hi
  case powersOn =>
    intro s hn hp
    refine step_of_unscheduled hn ?_
    rw [unscheduled, if_neg (by simp [hp])]
    exact Laws.decode_powerOnWord hp

/-- Settles O6: a table word of no bits is the tick word, one of 48 bits is the word itself, and the step after a
placed word is that word's. -/
theorem placedWordIsRunByTheNextStep : Obligations.PlacedWordIsRunByTheNextStep := by
  constructor
  · intro s i hi
    exact step_placeWord (Laws.decode_tickWord rfl hi)
  · intro s w i h
    have hw : tableWord 48 w.toNat = w := by
      rw [tableWord, if_neg (by decide), Nat.mod_eq_of_lt w.isLt, BitVec.ofNat_toNat, BitVec.setWidth_eq]
    rw [State.withFetchWord, hw]
    exact step_placeWord h
end

section
/-! SUPPORT. The statements on single host accesses: a read of any number leaves the hardware as it is, a number
that is not mapped answers a free value and ignores a write, and a narrow register keeps the low bits of a word. -/

namespace Sys2Proof.Machine

/-! ### Operand numbers, mapped and unmapped (R64, R65, R68) -/

section OperandNumbers

variable {s : State} {k : BitVec 6}

theorem exec_rdInputs_of_lt (h : k.toNat < s.cfg.operandRegs) :
    exec (.rdInputs k) s = .next (answer (readInput k.toNat s) s) := congrArg Host.Outcome.next (if_pos h)

theorem exec_rdWeights_of_lt (h : k.toNat < s.cfg.operandRegs) :
    exec (.rdWeights k) s = .next (answer (readWeight k.toNat s) s) := congrArg Host.Outcome.next (if_pos h)

theorem exec_rdInputs_of_le (h : s.cfg.operandRegs ≤ k.toNat) : exec (.rdInputs k) s = .next (answerFree s) :=
  congrArg Host.Outcome.next (if_neg h.not_gt)

theorem exec_wrInputs_of_le (w : Word) (h : s.cfg.operandRegs ≤ k.toNat) : exec (.wrInputs k w) s = .next s :=
  congrArg Host.Outcome.next (if_neg h.not_gt)

theorem exec_rdWeights_of_le (h : s.cfg.operandRegs ≤ k.toNat) : exec (.rdWeights k) s = .next (answerFree s) :=
  congrArg Host.Outcome.next (if_neg h.not_gt)

theorem exec_wrWeights_of_le (w : Word) (h : s.cfg.operandRegs ≤ k.toNat) : exec (.wrWeights k w) s = .next s :=
  congrArg Host.Outcome.next (if_neg h.not_gt)

theorem exec_rdUnmappedOperand_of_le (g : OperandGroup) (h : s.cfg.operandRegs ≤ k.toNat) :
    exec (.rdUnmappedOperand g k) s = .next (answerFree s) := congrArg Host.Outcome.next (if_neg h.not_gt)

theorem exec_wrUnmappedOperand_of_le (g : OperandGroup) (w : Word) (h : s.cfg.operandRegs ≤ k.toNat) :
    exec (.wrUnmappedOperand g k w) s = .next s := congrArg Host.Outcome.next (if_neg h.not_gt)

end OperandNumbers

/-! ### The answer of a read -/

/-- A read answers either a word that does not depend on what the host read before, or the next free value. -/
theorem exec_decodeRead_answer (s : State) (a : RegNum) :
    (∃ out, ∀ o, exec (decodeRead s.cfg.operandRegs a) { s with readOut := o } =
      .next (answer out { s with readOut := o })) ∨
    exec (decodeRead s.cfg.operandRegs a) s = .next (answerFree s) := by
  generalize hi : decodeRead s.cfg.operandRegs a = i
  simp only [decodeRead] at hi
  split_ifs at hi with _ _ _ _ _ _ _ _ _ mapped _ mapped <;> subst hi
  · exact .inl ⟨zext32 s.control, fun _ => rfl⟩
  · exact .inl ⟨zext32 (statusOf s), fun _ => rfl⟩
  · exact .inl ⟨s.bias, fun _ => rfl⟩
  · exact .inl ⟨s.result, fun _ => rfl⟩
  · exact .inr rfl
  · exact .inr rfl
  · exact .inr rfl
  · exact .inr rfl
  · exact .inl ⟨readInput _ s, fun _ => exec_rdInputs_of_lt mapped⟩
  · exact .inr (exec_rdUnmappedOperand_of_le .inputs (not_lt.1 mapped))
  · exact .inl ⟨readWeight _ s, fun _ => exec_rdWeights_of_lt mapped⟩
  · exact .inr (exec_rdUnmappedOperand_of_le .weights (not_lt.1 mapped))
  · exact .inr rfl

/-! ### What a narrow register keeps of a word (R34) -/

/-- A write of BIAS stores the low bits of its word and touches nothing else (R66). -/
theorem exec_wrBias {s : State} {w b : Word} (h : lowBits s.cfg.biasWidth w = b) :
    exec (.wrBias w) s = .next { s with bias := b } := by
  rw [← h]
  rfl

/-- The low `n` bits of a word that holds `z` are the `n`-bit pattern of `z`. -/
theorem toNat_ofInt_mod {n : Nat} (hn : n ≤ 32) (z : Int) : (BitVec.ofInt 32 z).toNat % 2 ^ n = wrapNat n z := by
  have hdvd : (2 : Int) ^ n ∣ 2 ^ 32 := pow_dvd_pow 2 hn
  zify
  rw [wrapNat_cast, BitVec.toNat_ofInt, Int.toNat_of_nonneg (Int.emod_nonneg _ (by norm_num))]
  exact Int.emod_emod_of_dvd z hdvd

/-- The `n`-bit pattern of the signed value of a pattern is that pattern. -/
theorem wrapNat_sint {n p : Nat} (hp : p < 2 ^ n) : wrapNat n (sint n p) = p := by
  have hmod : sint n p % 2 ^ n = (p : Int) % 2 ^ n :=
    Int.emod_eq_emod_iff_emod_sub_eq_zero.2 (sint_emod n p)
  zify
  rw [wrapNat_cast, hmod]
  exact Int.emod_eq_of_lt (by positivity) (by exact_mod_cast hp)

/-- A pattern and its 32-bit sign-extension have the same low bits. -/
theorem lowBits_ofInt_sint {n p : Nat} (hn : n ≤ 32) (hp : p < 2 ^ n) :
    lowBits n (BitVec.ofInt 32 (sint n p)) = BitVec.ofNat 32 p := by
  rw [lowBits, toNat_ofInt_mod hn, wrapNat_sint hp]

/-- A pattern with zeros above is its own low bits. -/
theorem lowBits_ofNat {n p : Nat} (hn : n ≤ 32) (hp : p < 2 ^ n) :
    lowBits n (BitVec.ofNat 32 p) = BitVec.ofNat 32 p := by
  have hp32 : p < 2 ^ 32 := hp.trans_le (Nat.pow_le_pow_right (by decide) hn)
  rw [lowBits, BitVec.toNat_ofNat, Nat.mod_eq_of_lt hp32, Nat.mod_eq_of_lt hp]

/-- CONTROL takes the low eight bits of a word. -/
theorem extractLsb'_congr_of_mod {w₁ w₂ : Word} (h : w₁.toNat % 256 = w₂.toNat % 256) :
    w₁.extractLsb' 0 8 = w₂.extractLsb' 0 8 :=
  BitVec.eq_of_toNat_eq (by simpa [BitVec.extractLsb'_toNat] using h)

end Sys2Proof.Machine

open Sys2Proof Sys2Proof.Machine

/-- Settles O22: a write of a narrow register is a function of the low bits of its word. -/
theorem narrowRegisterWritesStoreTheLowBits : Obligations.NarrowRegisterWritesStoreTheLowBits := by
  refine ⟨?bias, ?signed, ?control⟩
  case bias =>
    intro s w₁ w₂ h
    have hlow : lowBits s.cfg.biasWidth w₁ = lowBits s.cfg.biasWidth w₂ := congrArg (BitVec.ofNat 32) h
    rw [exec_wrBias hlow, exec_wrBias rfl]
  case signed =>
    intro s p hv hp
    obtain ⟨⟨-, hb⟩, -⟩ := valid_widths hv
    exact ⟨exec_wrBias (lowBits_ofInt_sint hb hp), exec_wrBias (lowBits_ofNat hb hp)⟩
  case control =>
    intro s w₁ w₂ h
    rw [exec, exec, execWrControl, execWrControl, extractLsb'_congr_of_mod h]

/-- Settles O25: a read touches the host's side alone, and one that draws no free value answers a word on which the
host's side has no influence. -/
theorem readsHaveNoSideEffect : Obligations.ReadsHaveNoSideEffect := by
  intro s a
  obtain ⟨out, hout⟩ | hfree := exec_decodeRead_answer s a
  · exact ⟨answer out s, hout s.readOut, rfl, fun _ => hout (some out)⟩
  · refine ⟨answerFree s, hfree, rfl, fun hdraws => ?_⟩
    rw [answerFree_draws] at hdraws
    omega

/-- Settles O24, row by row; an operand number from `M` on by the bound its meaning tests. -/
theorem unmappedNumbersAnswerAFreeValueAndIgnoreWrites :
    Obligations.UnmappedNumbersAnswerAFreeValueAndIgnoreWrites := by
  intro s w drawn
  exact ⟨fun _ => ⟨rfl, rfl⟩, fun _ => ⟨rfl, rfl⟩, fun _ => ⟨rfl, rfl⟩, fun _ => ⟨rfl, rfl⟩, fun _ => ⟨rfl, rfl⟩,
    fun g _ h => ⟨exec_rdUnmappedOperand_of_le g h, exec_wrUnmappedOperand_of_le g w h⟩,
    fun _ h => ⟨exec_rdInputs_of_le h, exec_wrInputs_of_le w h⟩,
    fun _ h => ⟨exec_rdWeights_of_le h, exec_wrWeights_of_le w h⟩⟩
end

section
/-! SUPPORT. The statements on runs of steps: host accesses between two ticks, and a schedule without a START. -/

namespace Sys2Proof.Machine

variable {s t : State}

/-! ### Runs -/

/-- A run of `k + 1` steps that completes is a step that completes and a run of `k` steps from there. -/
theorem runSteps_succ_next {k : Nat} :
    runSteps (k + 1) s = .next t ↔ ∃ u, step s = .next u ∧ runSteps k u = .next t := by
  rw [runSteps]
  cases step s <;> simp

/-- What every step that completes keeps, every run that completes keeps. -/
theorem runSteps_invariant {P : State → Prop} (hstep : ∀ u v, P u → step u = .next v → P v) {k : Nat} (hs : P s)
    (h : runSteps k s = .next t) : P t := by
  induction k generalizing s with
  | zero =>
    cases h
    exact hs
  | succ k ih =>
    obtain ⟨u, hu, hrun⟩ := runSteps_succ_next.1 h
    exact ih (hstep s u hs hu) hrun

/-! ### Host accesses between two ticks (R39) -/

/-- A word of the schedule that is a host access: a write, or a read with no data. -/
def HostAccess (w : StepWord) : Prop := kindOf w = kindWrite ∨ (kindOf w = kindRead ∧ dataOf w = 0)

/-- A scheduled host access completes and moves neither the control state nor RESULT. -/
theorem step_hostAccess {w : StepWord} {rest : List StepWord} (hs : s.Running) (hn : s.pending = w :: rest)
    (hw : HostAccess w) :
    ∃ t, step s = .next t ∧ t.Running ∧ t.pending = rest ∧ t.state = s.state ∧ t.result = s.result ∧
      t.cfg = s.cfg := by
  obtain ⟨hwf, hp⟩ := hs
  have hwf' : ({ s with pending := rest } : State).Wf := hwf
  obtain hk | ⟨hk, hd⟩ := hw
  · obtain ⟨c, xs, ys, b, e, -⟩ :=
      exec_decodeWrite s.cfg.operandRegs (numberOf w) (dataOf w) { s with pending := rest }
    exact ⟨_, (step_of_decode_ok hn (Laws.decode_of_kindWrite hp hk)).trans e, ⟨exec_decodeWrite_wf hwf' e, hp⟩,
      rfl, rfl, rfl, rfl⟩
  · obtain ⟨o, d, e⟩ := exec_decodeRead s.cfg.operandRegs (numberOf w) { s with pending := rest }
    exact ⟨_, (step_of_decode_ok hn (Laws.decode_of_kindRead hp hk hd)).trans e, ⟨exec_decodeRead_wf hwf' e, hp⟩,
      rfl, rfl, rfl, rfl⟩

/-- A run through scheduled host accesses completes and moves neither the control state nor RESULT. -/
theorem runSteps_hostAccesses {ws rest : List StepWord} (hs : s.Running) (hn : s.pending = ws ++ rest)
    (hws : ∀ w ∈ ws, HostAccess w) :
    ∃ t, runSteps ws.length s = .next t ∧ t.Running ∧ t.pending = rest ∧ t.state = s.state ∧
      t.result = s.result ∧ t.cfg = s.cfg := by
  induction ws generalizing s with
  | nil => exact ⟨s, rfl, hs, hn, rfl, rfl, rfl⟩
  | cons w ws ih =>
    obtain ⟨hw, hws⟩ := List.forall_mem_cons.1 hws
    obtain ⟨u, hu, hrunning, hpending, hstate, hresult, hcfg⟩ := step_hostAccess hs hn hw
    obtain ⟨t, hrun, ht⟩ := ih hrunning hpending hws
    rw [hstate, hresult, hcfg] at ht
    exact ⟨t, runSteps_succ_next.2 ⟨u, hu, hrun⟩, ht⟩

/-! ### A schedule without a START (R94, R97) -/

/-- A step word neither issues a START nor writes one to CONTROL. -/
def CarriesNoStart (w : StepWord) : Prop :=
  (kindOf w = kindCommand → (numberOf w).getLsbD 0 = false) ∧
    (kindOf w = kindWrite → numberOf w = 0 → (dataOf w).getLsbD 0 = false)

/-- A powered engine outside COMPUTE with no START in CONTROL and none in the schedule. -/
structure State.StartFree (s : State) : Prop where
  powered : s.powered = true
  resting : s.state ≠ .compute
  unset : s.control.getLsbD 0 = false
  schedule : ∀ w ∈ s.pending, CarriesNoStart w

/-- The word a step runs carries no START: it is one of the schedule, or the tick. -/
theorem fetch_carriesNoStart (hs : s.StartFree) : CarriesNoStart (fetch s).1 := by
  cases hn : s.pending with
  | nil =>
    have hk : kindOf (fetch s).1 = kindTick := by
      rw [fetch_nil hn, unscheduled, if_pos hs.powered, Laws.RowBits.kindOf_stepWord]
    constructor <;> rw [hk] <;> intro h <;> exact absurd h (by decide)
  | cons w rest =>
    rw [fetch_cons hn]
    exact hs.schedule w (hn ▸ List.mem_cons_self)

/-- The fetch adds nothing to the schedule. -/
theorem fetch_startFree (hs : s.StartFree) : (fetch s).2.StartFree := by
  rw [fetch_state]
  exact ⟨hs.powered, hs.resting, hs.unset, fun w hw => hs.schedule w (List.mem_of_mem_tail hw)⟩

/-- A tick outside COMPUTE commits nothing, and one that samples no START does not enter COMPUTE (R97, R107). -/
theorem sampleTick_startFree {c : Flags8} (hs : s.StartFree) (hc : c.getLsbD 0 = false)
    (h : sampleTick c s = some t) : t.StartFree ∧ t.result = s.result := by
  obtain ⟨st, hst, rfl⟩ := sampleTick_eq_some.1 h
  have hne : st ≠ .compute := by
    rintro rfl
    rw [commandOf_eq_start.1 (nextState_compute hst).2] at hc
    cases hc
  exact ⟨⟨hs.powered, hne, and_0xFE_getLsbD_zero c, hs.schedule⟩, if_neg hs.resting⟩

/-- A read moves nothing of the engine (R38). -/
theorem exec_decodeRead_startFree {m : Nat} {a : RegNum} (hs : s.StartFree)
    (h : exec (decodeRead m a) s = .next t) : t.StartFree ∧ t.result = s.result := by
  obtain ⟨o, d, e⟩ := exec_decodeRead m a s
  rw [e] at h
  cases h
  exact ⟨⟨hs.powered, hs.resting, hs.unset, hs.schedule⟩, rfl⟩

/-- A write that carries no START leaves none in CONTROL, whichever register it writes. -/
theorem exec_decodeWrite_startFree {m : Nat} {a : RegNum} {w : Word} (hs : s.StartFree)
    (hw : a = 0 → w.getLsbD 0 = false) (h : exec (decodeWrite m a w) s = .next t) :
    t.StartFree ∧ t.result = s.result := by
  obtain ⟨c, xs, ys, b, e, -, -, -, hzero, hother⟩ := exec_decodeWrite m a w s
  rw [e] at h
  cases h
  have hc : c.getLsbD 0 = false := by
    by_cases ha : a = 0
    · simpa [hzero ha] using hw ha
    · rw [hother ha, hs.unset]
  exact ⟨⟨hs.powered, hs.resting, hc, hs.schedule⟩, rfl⟩

/-- No step of an engine without a START commits, and none brings a START about. -/
theorem step_startFree (hs : s.StartFree) (h : step s = .next t) : t.StartFree ∧ t.result = s.result := by
  obtain ⟨hcommand, hwrite⟩ := fetch_carriesNoStart hs
  have hu := fetch_startFree hs
  have hresult : (fetch s).2.result = s.result := by rw [fetch_state]
  rw [← hresult]
  obtain ⟨-, -, ht⟩ | ⟨hk, ht⟩ | ⟨hk, -, ht⟩ | ⟨-, -, ht⟩ | ⟨-, ht⟩ := step_cases hs.powered h
  · exact exec_decodeRead_startFree hu ht
  · exact exec_decodeWrite_startFree hu (hwrite hk) ht
  · exact sampleTick_startFree hu (hcommand hk) ht
  · exact sampleTick_startFree hu hu.unset ht
  · exact sampleTick_startFree hu hu.unset ht

end Sys2Proof.Machine

open Sys2Proof Sys2Proof.Machine

/-- Settles O14, by induction on the list of accesses. -/
theorem hostAccessesBetweenTicksNeverMoveTheEngine : Obligations.HostAccessesBetweenTicksNeverMoveTheEngine :=
  fun _ _ _ hs hn hws => runSteps_hostAccesses hs hn hws

/-- Settles O54: that no START is set or scheduled is kept by every step, and under it no step commits. -/
theorem committedResultSurvivesUntilTheNextStart : Obligations.CommittedResultSurvivesUntilTheNextStart := by
  intro k s t ⟨_, hp⟩ hst hc hws h
  obtain ⟨hfree, hresult⟩ := runSteps_invariant (P := fun u => u.StartFree ∧ u.result = s.result)
    (fun u v ⟨hu, hur⟩ huv => (step_startFree hu huv).imp_right (·.trans hur)) ⟨⟨hp, hst, hc, hws⟩, rfl⟩ h
  exact ⟨hresult, hfree.resting⟩
end

section
/-! SUPPORT. The statements on what a step word says and on the pattern in CONTROL: the encoder undoes the decoder,
the tick under its three names, and the bits of CONTROL that no step looks at. -/

namespace Sys2Proof.Laws

/-! ### The decoder as a relation -/

/-- A step word is its three fields. -/
theorem stepWord_fields (w : StepWord) : stepWord (dataOf w) (kindOf w) (numberOf w) = w := by
  apply BitVec.eq_of_getLsbD_eq
  intro i hi
  simp only [stepWord, dataOf, kindOf, numberOf, BitVec.getLsbD_cast, BitVec.getLsbD_append,
    BitVec.getLsbD_extractLsb']
  split_ifs with h8 h16
  · simp [h8]
  · rw [show 8 + (i - 8) = i by omega]
    simp [h16]
  · rw [show 16 + (i - 8 - 8) = i by omega]
    simp [show i - 8 - 8 < 32 by omega]

theorem stepWord_of_fields {w : StepWord} {d : Word} {k n : BitVec 8} (hd : dataOf w = d) (hk : kindOf w = k)
    (hn : numberOf w = n) : w = stepWord d k n := by
  rw [← hd, ← hk, ← hn, stepWord_fields]

/-- The words the decoder reads, with what it reads from each: one constructor for each kind of step (log entry 2). -/
inductive DecodesTo (sel : Selection) : StepWord → Instr → Prop
  | read (hp : sel.powered = true) (a : RegNum) :
    DecodesTo sel (stepWord 0 kindRead a) (decodeRead sel.cfg.operandRegs a)
  | write (hp : sel.powered = true) (a : RegNum) (data : Word) :
    DecodesTo sel (stepWord data kindWrite a) (decodeWrite sel.cfg.operandRegs a data)
  | command (hp : sel.powered = true) (c : Flags8) : DecodesTo sel (stepWord 0 kindCommand c) (decodeCommand c)
  | compute (hp : sel.powered = true) (hs : sel.state = .compute) :
    DecodesTo sel (stepWord 0 kindCompute 0) (decodeCompute sel.cfg.kind)
  | tick (hp : sel.powered = true) {i : Instr} (hi : decodeTick sel.cfg.fsm sel.state = some i) :
    DecodesTo sel (stepWord 0 kindTick 0) i
  | powerOn (hp : sel.powered = false) : DecodesTo sel (stepWord 0 kindPowerOn 0) .powerOn

variable {sel : Selection} {w : StepWord} {i : Instr}

/-- The relation is the decoder. -/
theorem decode_eq_ok_iff : decode sel w = .ok i ↔ DecodesTo sel w i := by
  constructor
  · intro h
    unfold decode at h
    split_ifs at h with hpower hfields hon hoff hwrite hd hread hcommand hn hcompute hs htick
    · obtain ⟨hd, hn⟩ := not_or.1 hfields
      cases h
      rw [stepWord_of_fields (not_not.1 hd) hpower (not_not.1 hn)]
      exact .powerOn (eq_false_of_ne_true hon)
    all_goals have hp : sel.powered = true := eq_true_of_ne_false hoff
    · cases h
      rw [stepWord_of_fields (w := w) rfl hwrite rfl, RowBits.numberOf_stepWord, RowBits.dataOf_stepWord]
      exact .write hp _ _
    · cases h
      rw [stepWord_of_fields (not_not.1 hd) hread rfl, RowBits.numberOf_stepWord]
      exact .read hp _
    · cases h
      rw [stepWord_of_fields (not_not.1 hd) hcommand rfl, RowBits.numberOf_stepWord]
      exact .command hp _
    · cases h
      rw [stepWord_of_fields (not_not.1 hd) hcompute (not_not.1 hn)]
      exact .compute hp hs
    · rw [stepWord_of_fields (not_not.1 hd) htick (not_not.1 hn)]
      split at h
      next hi =>
        cases h
        exact .tick hp hi
      next => cases h
  · rintro (⟨hp, a⟩ | ⟨hp, a, data⟩ | ⟨hp, c⟩ | ⟨hp, hs⟩ | ⟨hp, hi⟩ | hp)
    · exact decode_readWord hp rfl
    · exact (decode_writeWord hp rfl).trans (by rw [decodeWrite_eq_writeOf])
    · exact decode_commandWord hp rfl
    · exact decode_computeWord hp hs
    · exact decode_tickWord hp hi
    · exact decode_powerOnWord hp

/-! ### The encoder undoes the decoder, kind by kind -/

/-- A number lies in the control group or the last one, or is the bits of an operand group and an index (R46). -/
theorem number_cases (a : RegNum) :
    (a.extractLsb' 6 2 = 0 ∨ a.extractLsb' 6 2 = 3) ∨ ∃ (g : OperandGroup) (k : BitVec 6), a = g.bits ++ k := by
  have key : ∀ a : RegNum, (a.extractLsb' 6 2 = 0 ∨ a.extractLsb' 6 2 = 3) ∨
      a = OperandGroup.inputs.bits ++ a.extractLsb' 0 6 ∨ a = OperandGroup.weights.bits ++ a.extractLsb' 0 6 := by
    decide
  obtain hcontrol | hinputs | hweights := key a
  · exact .inl hcontrol
  · exact .inr ⟨_, _, hinputs⟩
  · exact .inr ⟨_, _, hweights⟩

/-- The RD row of a number is encoded with that number, mapped or not. -/
theorem encode_decodeRead (m : Nat) (a : RegNum) : encode (decodeRead m a) = stepWord 0 kindRead a := by
  obtain hcontrol | ⟨g, k, rfl⟩ := number_cases a
  · rw [decodeRead_control_groups m a hcontrol]
    revert a; decide
  · obtain hmapped | hunmapped := lt_or_ge k.toNat m
    · cases g with
      | inputs => exact congrArg encode (decodeRead_inputs m k hmapped)
      | weights => exact congrArg encode (decodeRead_weights m k hmapped)
    · exact congrArg encode (decodeRead_unmappedOperand m g k hunmapped)

/-- The WR row beside an RD row is encoded with the same number, the kind of a write and its data word. -/
theorem encode_writeOf (data : Word) (h : kindOf (encode i) = kindRead) :
    encode (writeOf data i) = stepWord data kindWrite (numberOf (encode i)) := by
  cases i <;> simp [encode, writeOf, RowBits.kindOf_stepWord, RowBits.numberOf_stepWord, kindRead, kindWrite,
    kindCommand, kindCompute, kindTick, kindPowerOn] at h ⊢

theorem encode_decodeWrite (m : Nat) (a : RegNum) (data : Word) :
    encode (decodeWrite m a data) = stepWord data kindWrite a := by
  have hread := encode_decodeRead m a
  rw [decodeWrite_eq_writeOf, encode_writeOf data (by rw [hread, RowBits.kindOf_stepWord]), hread,
    RowBits.numberOf_stepWord]

theorem encode_decodeCommand (c : Flags8) : encode (decodeCommand c) = stepWord 0 kindCommand c := by
  revert c; decide

theorem encode_decodeCompute (k : Kind) : encode (decodeCompute k) = stepWord 0 kindCompute 0 := by cases k <;> rfl

theorem encode_of_decodeTick {f : Fsm} {st : ControlState} (h : decodeTick f st = some i) :
    encode i = stepWord 0 kindTick 0 := by
  cases f <;> cases st <;> cases h <;> rfl

/-! ### What the decoder reads is well-formed -/

theorem wellFormed_decodeRead (hp : sel.powered = true) (a : RegNum) :
    wellFormed sel (decodeRead sel.cfg.operandRegs a) = true := by
  simp only [decodeRead]
  split_ifs <;> simp_all [wellFormed]

theorem wellFormed_writeOf (data : Word) : wellFormed sel (writeOf data i) = wellFormed sel i := by cases i <;> rfl

theorem wellFormed_decodeCommand (c : Flags8) : wellFormed sel (decodeCommand c) = sel.powered := by
  unfold decodeCommand
  split_ifs <;> rfl

theorem wellFormed_decodeCompute (hp : sel.powered = true) (hs : sel.state = .compute) :
    wellFormed sel (decodeCompute sel.cfg.kind) = true := by
  cases hk : sel.cfg.kind <;> simp [decodeCompute, wellFormed, hp, hs, hk]

theorem wellFormed_of_decodeTick (hp : sel.powered = true) (hi : decodeTick sel.cfg.fsm sel.state = some i) :
    wellFormed sel i = true := by
  cases hf : sel.cfg.fsm <;> cases hs : sel.state <;> rw [hf, hs] at hi <;> cases hi <;>
    simp [wellFormed, hp, hf, hs]

theorem DecodesTo.wellFormed_and_encode (h : DecodesTo sel w i) : wellFormed sel i = true ∧ encode i = w := by
  cases h with
  | read hp a => exact ⟨wellFormed_decodeRead hp a, encode_decodeRead _ a⟩
  | write hp a data =>
    refine ⟨?_, encode_decodeWrite _ a data⟩
    rw [decodeWrite_eq_writeOf, wellFormed_writeOf, wellFormed_decodeRead hp]
  | command hp c => exact ⟨(wellFormed_decodeCommand c).trans hp, encode_decodeCommand c⟩
  | compute hp hs => exact ⟨wellFormed_decodeCompute hp hs, encode_decodeCompute _⟩
  | tick hp hi => exact ⟨wellFormed_of_decodeTick hp hi, encode_of_decodeTick hi⟩
  | powerOn hp => exact ⟨by rw [wellFormed, hp]; rfl, rfl⟩

end Sys2Proof.Laws

namespace Sys2Proof.Machine

variable {s t : State} {i : Instr} {c : Flags8}

/-! ### Rows that are not selected -/

/-- A row guarded by two facts about the engine is refused where they do not both hold (R45). -/
theorem whenSelected_of_not {p q : Prop} [Decidable p] [Decidable q] (h : ¬ (p ∧ q)) (u : State) :
    whenSelected (decide p && decide q) u = .refused .notSelected := by
  rw [← Bool.decide_and, decide_eq_false h]
  rfl

/-! ### The tick under its three names -/

theorem decodeTick_of_has {f : Fsm} {st : ControlState} (h : f.has st = true) : ∃ i, decodeTick f st = some i := by
  cases f <;> cases st <;> simp [decodeTick, Fsm.has] at h ⊢

/-- The TICK row of variant and state, the command CONTROL holds and, in COMPUTE, the compute operation of the
pipeline: each is the tick (R45, R52, R53). -/
theorem exec_decodeTick_next (hi : decodeTick s.cfg.fsm s.state = some i) :
    exec i s = .next t ↔ tick s = some t := by
  obtain ⟨u, hexec, htick⟩ := exec_decodeTick hi
  rw [hexec, htick, Host.Outcome.next.injEq, Option.some_inj]

theorem exec_decodeCommand_next : exec (decodeCommand s.control) s = .next t ↔ tick s = some t := by
  rw [exec_decodeCommand, runCommand_next, tick]

theorem exec_decodeCompute_next (hs : s.state = .compute) :
    exec (decodeCompute s.cfg.kind) s = .next t ↔ tick s = some t := by
  obtain ⟨u, hexec, htick⟩ := exec_decodeCompute hs
  rw [hexec, htick, Host.Outcome.next.injEq, Option.some_inj]

/-! ### CONTROL in the steps that are no tick -/

/-- What the operation does is the same with any other pattern in CONTROL, which it keeps. -/
def KeepsAnyControl (i : Instr) : Prop :=
  ∀ (s t : State) (c : Flags8), exec i s = .next t → exec i { s with control := c } = .next { t with control := c }

theorem KeepsAnyControl.control_eq (hi : KeepsAnyControl i) (h : exec i s = .next t) : t.control = s.control := by
  have hsame : t = { t with control := s.control } := Host.Outcome.next.inj (h.symm.trans (hi s t s.control h))
  rw [hsame]

/-- CONTROL is register number 0 (R46). -/
theorem number_eq_zero_of_fields {a : RegNum} : a.extractLsb' 6 2 = 0 → a.extractLsb' 0 6 = 0 → a = 0 := by
  revert a; decide

/-- The RD row of any other number and the WR row beside it keep any CONTROL, each row by its meaning (R60, R61). -/
theorem busRows_keepAnyControl {m : Nat} {a : RegNum} (ha : a ≠ 0) :
    KeepsAnyControl (decodeRead m a) ∧ ∀ data, KeepsAnyControl (Laws.writeOf data (decodeRead m a)) := by
  generalize hi : decodeRead m a = i
  simp only [decodeRead] at hi
  split_ifs at hi with hgroup hindex <;> subst hi
  · exact absurd (number_eq_zero_of_fields hgroup hindex) ha
  all_goals
    refine ⟨fun s t c h => ?_, fun data s t c h => ?_⟩ <;> cases h <;>
      simp only [Laws.writeOf, exec, execRdInputs, execWrInputs, execRdWeights, execWrWeights, execRdUnmappedOperand,
        execWrUnmappedOperand] <;>
      (try split_ifs) <;> rfl

/-! ### CONTROL in the tick -/

/-- A tick that samples a given pattern does not look at CONTROL: MODE has no effect on the commit (R104). -/
theorem sampleTick_withControl {d : Flags8} (h : sampleTick d s = some t) :
    sampleTick d { s with control := c } = some t := by
  obtain ⟨st, hst, rfl⟩ := sampleTick_eq_some.1 h
  exact sampleTick_eq_some.2 ⟨st, hst, rfl⟩

/-- Of the pattern a tick samples the two low bits alone decide what it does, and they alone decide what becomes of
them. -/
theorem tick_withControl (hc : c.extractLsb' 0 2 = s.control.extractLsb' 0 2) (h : tick s = some t) :
    ∃ c', tick { s with control := c } = some { t with control := c' } ∧
      c'.extractLsb' 0 2 = t.control.extractLsb' 0 2 := by
  obtain ⟨st, hst, rfl⟩ := sampleTick_eq_some.1 h
  refine ⟨c &&& 0xFE, sampleTick_eq_some.2 ⟨st, ?_, rfl⟩, ?_⟩
  · rw [commandOf_congr hc]
    exact hst
  · rw [BitVec.extractLsb'_and, BitVec.extractLsb'_and, hc]

/-! ### The step and the bits of CONTROL it does not look at -/

/-- What a decoded operation does does not depend on MODE and CONTROL[7:3], but for the answer of a read of CONTROL,
register number 0. -/
theorem exec_withControl {w : StepWord} (hd : Laws.DecodesTo s.selection w i)
    (hc : c.extractLsb' 0 2 = s.control.extractLsb' 0 2) (h : exec i s = .next t) :
    ∃ c' o, exec i { s with control := c } = .next { t with control := c', readOut := o } ∧
      c'.extractLsb' 0 2 = t.control.extractLsb' 0 2 ∧
      (¬ (kindOf w = kindRead ∧ numberOf w = 0) → o = t.readOut) := by
  cases hd with
  | read _ a =>
    by_cases ha : a = 0
    · subst ha
      cases h
      exact ⟨c, some (zext32 c), rfl, hc, fun hne =>
        absurd ⟨Laws.RowBits.kindOf_stepWord .., Laws.RowBits.numberOf_stepWord ..⟩ hne⟩
    · have hkeeps := (busRows_keepAnyControl (m := s.selection.cfg.operandRegs) ha).1
      exact ⟨c, t.readOut, hkeeps s t c h, by rw [hkeeps.control_eq h, hc], fun _ => rfl⟩
  | write _ a data =>
    rw [Laws.decodeWrite_eq_writeOf] at h ⊢
    by_cases ha : a = 0
    · subst ha
      cases h
      exact ⟨data.extractLsb' 0 8, s.readOut, rfl, rfl, fun _ => rfl⟩
    · have hkeeps := (busRows_keepAnyControl (m := s.selection.cfg.operandRegs) ha).2 data
      exact ⟨c, t.readOut, hkeeps s t c h, by rw [hkeeps.control_eq h, hc], fun _ => rfl⟩
  | command _ d =>
    rw [exec_decodeCommand, runCommand_next] at h
    refine ⟨t.control, t.readOut, ?_, rfl, fun _ => rfl⟩
    rw [exec_decodeCommand, runCommand_next]
    exact sampleTick_withControl h
  | compute _ hs =>
    obtain ⟨c', htick, hc'⟩ := tick_withControl hc ((exec_decodeCompute_next hs).1 h)
    exact ⟨c', t.readOut, (exec_decodeCompute_next (s := { s with control := c }) hs).2 htick, hc', fun _ => rfl⟩
  | tick _ hi =>
    obtain ⟨c', htick, hc'⟩ := tick_withControl hc ((exec_decodeTick_next hi).1 h)
    exact ⟨c', t.readOut, (exec_decodeTick_next (s := { s with control := c }) hi).2 htick, hc', fun _ => rfl⟩
  | powerOn _ => exact ⟨t.control, t.readOut, h, rfl, fun _ => rfl⟩

/-- A step that completes runs what the fetched word decodes to, in the state the fetch leaves. -/
theorem step_eq_next : step s = .next t ↔
    ∃ i, decode (fetch s).2.selection (fetch s).1 = .ok i ∧ exec i (fetch s).2 = .next t := by
  rw [step]
  cases decode (fetch s).2.selection (fetch s).1 <;> simp

/-- The fetch does not look at CONTROL. -/
theorem fetch_withControl (s : State) (c : Flags8) :
    fetch { s with control := c } = ((fetch s).1, { (fetch s).2 with control := c }) := by
  obtain ⟨_, _, _, _, _, _, _, _, pending, _, _⟩ := s
  cases pending <;> rfl

/-- The step reads CONTROL only if the schedule says so: with nothing scheduled its word is not a read. -/
theorem fetch_not_readControl
    (h : ∀ w ∈ s.pending.head?, ¬ (kindOf w = kindRead ∧ numberOf w = 0)) (hp : s.powered = true) :
    ¬ (kindOf (fetch s).1 = kindRead ∧ numberOf (fetch s).1 = 0) := by
  cases hn : s.pending with
  | nil =>
    rw [fetch_nil hn, unscheduled, if_pos hp, Laws.RowBits.kindOf_stepWord]
    exact fun hread => absurd hread.1 (by decide)
  | cons w rest =>
    rw [fetch_cons hn]
    exact h w (by rw [hn]; rfl)

end Sys2Proof.Machine

open Sys2Proof Sys2Proof.Machine

/-- Settles O2: the words the decoder reads, by kind, each with the row it reads from it. -/
theorem decodedWordIsTheEncodingOfItsOperation : Obligations.DecodedWordIsTheEncodingOfItsOperation :=
  fun _ _ _ h => (Laws.decode_eq_ok_iff.1 h).wellFormed_and_encode

/-- Settles O12: neither the fetch nor the decoder looks at CONTROL, a tick looks at its two low bits, and a host
access other than of CONTROL at none. -/
theorem modeAndUnnamedControlBitsHaveNoEffect : Obligations.ModeAndUnnamedControlBitsHaveNoEffect := by
  intro s t c ⟨_, hp⟩ hc h
  obtain ⟨i, hdecode, hexec⟩ := step_eq_next.1 h
  have hcontrol : (fetch s).2.control = s.control := by rw [fetch_state]
  obtain ⟨c', o, hexec', hc', ho⟩ :=
    exec_withControl (Laws.decode_eq_ok_iff.1 hdecode) (hc.trans (by rw [hcontrol])) hexec
  refine ⟨c', o, step_eq_next.2 ⟨i, ?_⟩, hc', fun hread => ho (fetch_not_readControl hread hp)⟩
  rw [fetch_withControl]
  exact ⟨hdecode, hexec'⟩

/-- Settles O46: each of the three rows is the tick, which every running engine can take. -/
theorem commandComputeAndTickRowsAreOneStep : Obligations.CommandComputeAndTickRowsAreOneStep := by
  intro s ⟨⟨_, _, _, _, _, hhas⟩, _⟩
  obtain ⟨i, hi⟩ := decodeTick_of_has hhas
  obtain ⟨t, hexec, htick⟩ := exec_decodeTick hi
  exact ⟨i, t, hi, hexec, htick, exec_decodeCommand_next.2 htick, fun hs => (exec_decodeCompute_next hs).2 htick⟩

/-- Settles O3: the decoder is run on each of the words. -/
theorem stepWordsOfTheSpecDecodeToTheirSteps : Obligations.StepWordsOfTheSpecDecodeToTheirSteps := by
  unfold Obligations.StepWordsOfTheSpecDecodeToTheirSteps
  decide

/-- Settles O4: the 256 patterns, one by one; that bits 7:2 take no part, by the two low bits they leave. -/
theorem controlPatternDecodesToItsCommand : Obligations.ControlPatternDecodesToItsCommand := by
  intro c
  refine ⟨?start, ?reset, ?nop, ?low⟩
  case start => revert c; decide
  case reset => revert c; decide
  case nop => revert c; decide
  case low => exact commandOf_congr (by revert c; decide)

/-- Settles O44: a row's two guards are the configuration and the state it is selected by. -/
theorem unselectedRowsAreRefused : Obligations.UnselectedRowsAreRefused :=
  fun _ => ⟨fun h => whenSelected_of_not h _, fun h => whenSelected_of_not h _, fun h => whenSelected_of_not h _,
    fun h => whenSelected_of_not h _, fun h => whenSelected_of_not h _, fun h => whenSelected_of_not h _,
    fun h => whenSelected_of_not h _, fun h => whenSelected_of_not h _⟩
end

section
/-! SUPPORT. The statements on the register file: which register a number selects, that a read answers it and a write
changes it alone, and what the engine keeps and uses of what was written. -/

namespace Sys2Proof.Machine

variable {s t : State}

/-! ### The register a number selects (R46) -/

/-- The number of an operand register is its group's bits and its index. -/
theorem number_of_operand {a : RegNum} {k : Nat} (g : OperandGroup) (hk : k < 64)
    (h : a.toNat = 64 * g.bits.toNat + k) : ∃ i : BitVec 6, i.toNat = k ∧ a = g.bits ++ i := by
  have hi : (BitVec.ofNat 6 k).toNat = k := Nat.mod_eq_of_lt hk
  refine ⟨BitVec.ofNat 6 k, hi, BitVec.eq_of_toNat_eq ?_⟩
  rw [BitVec.toNat_append, ← Nat.shiftLeft_add_eq_or_of_lt (BitVec.isLt _), hi, h, Nat.shiftLeft_eq]
  omega

/-- A number of a group is the group's bits and its index. -/
theorem number_toNat_of_group {a : RegNum} {g : BitVec 2} (h : a.extractLsb' 6 2 = g) :
    a.toNat = 64 * g.toNat + (a.extractLsb' 0 6).toNat := by
  subst h; revert a; decide

/-- The numbers that select no register, with `m` operand registers in each group (R46, R68). -/
def Unmapped (m : Nat) (a : RegNum) : Prop :=
  (0x04 ≤ a.toNat ∧ a.toNat < 0x40) ∨ (0x40 + m ≤ a.toNat ∧ a.toNat < 0x80) ∨
    (0x80 + m ≤ a.toNat ∧ a.toNat < 0xC0) ∨ 0xC0 ≤ a.toNat

/-- A number that selects no register is none of the four control registers and no operand register below `m`. -/
theorem Unmapped.index_not_lt {m : Nat} {a : RegNum} (h : Unmapped m a) :
    (a.extractLsb' 6 2 = 0 → ¬ (a.extractLsb' 0 6).toNat < 4) ∧
      (a.extractLsb' 6 2 = 1 ∨ a.extractLsb' 6 2 = 2 → ¬ (a.extractLsb' 0 6).toNat < m) := by
  have hk := (a.extractLsb' 0 6).isLt
  unfold Unmapped at h
  refine ⟨fun hg => ?control, ?operand⟩
  case control =>
    have hnum : a.toNat = 64 * 0 + _ := number_toNat_of_group hg
    omega
  case operand =>
    rintro (hg | hg)
    · have hnum : a.toNat = 64 * 1 + _ := number_toNat_of_group hg
      omega
    · have hnum : a.toNat = 64 * 2 + _ := number_toNat_of_group hg
      omega

/-- A read of a number that selects no register answers a free value, and a write does nothing (R68). -/
theorem exec_of_unmapped {a : RegNum} (h : Unmapped s.cfg.operandRegs a) :
    exec (decodeRead s.cfg.operandRegs a) s = .next (answerFree s) ∧
      ∀ w, exec (decodeWrite s.cfg.operandRegs a w) s = .next s := by
  obtain ⟨hcontrol, hoperand⟩ := h.index_not_lt
  simp only [Laws.decodeWrite_eq_writeOf]
  generalize hi : decodeRead s.cfg.operandRegs a = i
  simp only [decodeRead] at hi
  split_ifs at hi with g0 k0 k1 k2 k3 _ _ _ g1 mapped g2 mapped <;> subst hi
  · exact absurd (by rw [k0]; decide) (hcontrol g0)
  · exact absurd (by rw [k1]; decide) (hcontrol g0)
  · exact absurd (by rw [k2]; decide) (hcontrol g0)
  · exact absurd (by rw [k3]; decide) (hcontrol g0)
  · exact ⟨rfl, fun _ => rfl⟩
  · exact ⟨rfl, fun _ => rfl⟩
  · exact ⟨rfl, fun _ => rfl⟩
  · exact ⟨rfl, fun _ => rfl⟩
  · exact absurd mapped (hoperand (.inl g1))
  · exact ⟨exec_rdUnmappedOperand_of_le .inputs (not_lt.1 mapped),
      fun w => exec_wrUnmappedOperand_of_le .inputs w (not_lt.1 mapped)⟩
  · exact absurd mapped (hoperand (.inr g2))
  · exact ⟨exec_rdUnmappedOperand_of_le .weights (not_lt.1 mapped),
      fun w => exec_wrUnmappedOperand_of_le .weights w (not_lt.1 mapped)⟩
  · exact ⟨rfl, fun _ => rfl⟩

/-! ### The operand registers (R64, R65) -/

theorem decodeWrite_inputs {m : Nat} {k : BitVec 6} (w : Word) (h : k.toNat < m) :
    decodeWrite m (0b01#2 ++ k) w = .wrInputs k w := by
  rw [Laws.decodeWrite_eq_writeOf, Laws.decodeRead_inputs m k h, Laws.writeOf]

theorem decodeWrite_weights {m : Nat} {k : BitVec 6} (w : Word) (h : k.toNat < m) :
    decodeWrite m (0b10#2 ++ k) w = .wrWeights k w := by
  rw [Laws.decodeWrite_eq_writeOf, Laws.decodeRead_weights m k h, Laws.writeOf]

theorem exec_wrInputs_of_lt {k : BitVec 6} (w : Word) (h : k.toNat < s.cfg.operandRegs) :
    exec (.wrInputs k w) s = .next (setInput k.toNat w s) := congrArg Host.Outcome.next (if_pos h)

theorem exec_wrWeights_of_lt {k : BitVec 6} (w : Word) (h : k.toNat < s.cfg.operandRegs) :
    exec (.wrWeights k w) s = .next (setWeight k.toNat w s) := congrArg Host.Outcome.next (if_pos h)

/-- A register file after a write of one of its registers. -/
theorem getD_set {regs : List Word} {k : Nat} (w : Word) (hk : k < regs.length) (j : Nat) :
    (regs.set k w).getD j 0 = if j = k then w else regs.getD j 0 := by
  rw [List.getD_eq_getElem?_getD, List.getD_eq_getElem?_getD]
  split_ifs with h
  · rw [h, List.getElem?_set_self hk, Option.getD_some]
  · rw [List.getElem?_set_ne (Ne.symm h)]

/-- A write of an operand register sets its `K` lanes and no other (R18). -/
theorem lane_set {c : Config} {regs : List Word} {k : Nat} (w : Word) (hk : k < regs.length) (i : Nat) :
    lane c (regs.set k w) i = if i / c.lanesPerReg = k then unpackLane w i c.w else lane c regs i := by
  rw [lane, lane, getD_set w hk]
  split_ifs <;> rfl

/-- With nothing scheduled a powered engine in COMPUTE commits the pipeline output of its registers (R97). -/
theorem step_commits (hp : s.powered = true) (hf : s.cfg.fsm.has s.state = true) (hs : s.state = .compute)
    (hn : s.pending = []) : ∃ t, step s = .next t ∧ t.result = pipeline s := by
  obtain ⟨t, hstep, htick⟩ := step_nil hp hn hf
  obtain ⟨st, -, rfl⟩ := sampleTick_eq_some.1 htick
  exact ⟨_, hstep, if_pos hs⟩

/-! ### BIAS (R66) -/

/-- The low `n` bits of a word are the `n`-bit pattern of its signed value. -/
theorem toNat_ofNat_mod_eq_wrapNat {n : Nat} (hn : n ≤ 32) (w : Word) :
    (BitVec.ofNat 32 (w.toNat % 2 ^ n)).toNat = wrapNat n w.toInt := by
  rw [← toNat_ofInt_mod hn, BitVec.ofInt_toInt, BitVec.toNat_ofNat]
  exact Nat.mod_eq_of_lt ((Nat.mod_le _ _).trans_lt w.isLt)

/-! ### RESULT (R67, R97) -/

/-- The word a step runs is the head of the schedule, if there is one. -/
theorem fetch_fst_of_mem_head? {w : StepWord} (h : w ∈ s.pending.head?) : (fetch s).1 = w := by
  cases hn : s.pending with
  | nil => simp [hn] at h
  | cons w' rest =>
    rw [fetch_cons hn]
    simpa [hn] using h

/-- A step that does not begin in COMPUTE and one that is a host access keep RESULT. -/
theorem step_keeps_result (hp : s.powered = true) (h : step s = .next t)
    (hno : s.state ≠ .compute ∨ kindOf (fetch s).1 = kindRead ∨ kindOf (fetch s).1 = kindWrite) :
    t.result = s.result := by
  obtain ⟨-, o, d, rfl⟩ | ⟨-, c, xs, ys, b, rfl⟩ | ⟨hread, hwrite, c, -, htick⟩ := step_effect hp h
  · rfl
  · rfl
  · obtain ⟨st, -, rfl⟩ := sampleTick_eq_some.1 htick
    exact if_neg (hno.resolve_right (not_or.2 ⟨hread, hwrite⟩))

/-! ### STATUS (R63) -/

/-- Above BUSY, bit 2, STATUS is zero. -/
theorem status_getLsbD_of_three_le (f : Fsm) (st : ControlState) {j : Nat} (hj : 3 ≤ j) :
    (status f st).getLsbD j = false := by
  rw [status, BitVec.getLsbD_append, BitVec.getLsbD_append, BitVec.getLsbD_append, if_neg (by omega),
    if_neg (by omega), if_neg (by omega), BitVec.getLsbD_zero]

end Sys2Proof.Machine

open Sys2Proof Sys2Proof.Machine

/-- Settles O15: a control register has one number, an operand register its group and index, and every other number
selects no register. -/
theorem busReadAnswersTheAddressedRegister : Obligations.BusReadAnswersTheAddressedRegister := by
  intro s a m out
  refine ⟨?control, ?status, ?bias, ?result, ?inputs, ?weights, fun h => (exec_of_unmapped h).1⟩
  case control => exact fun h => by cases BitVec.eq_of_toNat_eq (y := 0x00#8) h; rfl
  case status => exact fun h => by cases BitVec.eq_of_toNat_eq (y := 0x01#8) h; rfl
  case bias => exact fun h => by cases BitVec.eq_of_toNat_eq (y := 0x02#8) h; rfl
  case result => exact fun h => by cases BitVec.eq_of_toNat_eq (y := 0x03#8) h; rfl
  case inputs =>
    intro k hm hk h
    obtain ⟨i, rfl, rfl⟩ := number_of_operand .inputs hk h
    exact (congrArg (exec · s) (Laws.decodeRead_inputs m i hm)).trans (exec_rdInputs_of_lt hm)
  case weights =>
    intro k hm hk h
    obtain ⟨i, rfl, rfl⟩ := number_of_operand .weights hk h
    exact (congrArg (exec · s) (Laws.decodeRead_weights m i hm)).trans (exec_rdWeights_of_lt hm)

/-- Settles O16: the WR row stands beside the RD row of the same number. -/
theorem busWriteChangesOnlyTheAddressedRegister : Obligations.BusWriteChangesOnlyTheAddressedRegister := by
  intro s a w m out
  refine ⟨?control, ?bias, ?inputs, ?weights, ?readOnly, fun h => (exec_of_unmapped h).2 w⟩
  case control => exact fun h => by cases BitVec.eq_of_toNat_eq (y := 0x00#8) h; rfl
  case bias => exact fun h => by cases BitVec.eq_of_toNat_eq (y := 0x02#8) h; rfl
  case inputs =>
    intro k hm hk h
    obtain ⟨i, rfl, rfl⟩ := number_of_operand .inputs hk h
    exact (congrArg (exec · s) (decodeWrite_inputs w hm)).trans (exec_wrInputs_of_lt w hm)
  case weights =>
    intro k hm hk h
    obtain ⟨i, rfl, rfl⟩ := number_of_operand .weights hk h
    exact (congrArg (exec · s) (decodeWrite_weights w hm)).trans (exec_wrWeights_of_lt w hm)
  case readOnly =>
    rintro (h | h)
    · cases BitVec.eq_of_toNat_eq (y := 0x01#8) h; rfl
    · cases BitVec.eq_of_toNat_eq (y := 0x03#8) h; rfl

/-- Settles O17, row by row: the low eight bits of a word are its truncation to eight bits. -/
theorem controlIsReadAndWrittenWhole : Obligations.ControlIsReadAndWrittenWhole :=
  ⟨fun _ => rfl, fun _ _ => rfl, fun _ _ _ => rfl⟩

/-- Settles O18: STATUS has three flags, and zeros above them. -/
theorem statusReadsTheControlStateAndIgnoresWrites : Obligations.StatusReadsTheControlStateAndIgnoresWrites := by
  refine ⟨fun _ => rfl, fun f st j hj => ?_, fun _ _ => rfl⟩
  rw [BitVec.getLsbD_setWidth, status_getLsbD_of_three_le f st hj, Bool.and_false]

/-- Settles O19, with the write made in COMPUTE committed by the step after it. -/
theorem inputsRegisterIsReadAndWrittenWhole : Obligations.InputsRegisterIsReadAndWrittenWhole := by
  intro s k w ⟨⟨_, hinputs, _, _, _, hhas⟩, hp⟩ hk
  have hlen : k.toNat < s.inputs.length := hk.trans_eq hinputs.symm
  exact ⟨exec_rdInputs_of_lt hk, exec_wrInputs_of_lt w hk, getD_set w hlen, fun _ => lane_set w hlen,
    step_commits (s := setInput k.toNat w s) hp hhas⟩

/-- Settles O20, as O19 for the other group. -/
theorem weightsRegisterIsReadAndWrittenWhole : Obligations.WeightsRegisterIsReadAndWrittenWhole := by
  intro s k w ⟨⟨_, _, hweights, _, _, hhas⟩, hp⟩ hk
  have hlen : k.toNat < s.weights.length := hk.trans_eq hweights.symm
  exact ⟨exec_rdWeights_of_lt hk, exec_wrWeights_of_lt w hk, getD_set w hlen, fun _ => lane_set w hlen,
    step_commits (s := setWeight k.toNat w s) hp hhas⟩

/-- Settles O21: what is stored is the word's value wrapped, and the pipeline reads it in its signed range. -/
theorem biasKeepsItsLowBits : Obligations.BiasKeepsItsLowBits := by
  intro s w ⟨hvalid, _, _, hbias, _⟩ stored
  obtain ⟨⟨hpos, hle⟩, -⟩ := valid_widths hvalid
  have hstored : stored.toNat = wrapNat s.cfg.biasWidth w.toInt := toNat_ofNat_mod_eq_wrapNat hle w
  refine ⟨rfl, hbias, exec_wrBias rfl, ?_, ?_, rfl⟩
  · exact sint_range hpos (hstored ▸ wrapNat_lt _ _)
  · rw [hstored]
    exact sint_wrapNat_emod _ _

/-- Settles O23: only a tick from COMPUTE loads RESULT, and a host access is no tick. -/
theorem resultIsReadOnlyAndStableBetweenCommits : Obligations.ResultIsReadOnlyAndStableBetweenCommits := by
  refine ⟨fun _ => rfl, fun s ⟨_, _, _, _, hresult, _⟩ => hresult, ?stable, fun _ _ => rfl⟩
  rintro s t ⟨_, hp⟩ hno h
  refine step_keeps_result hp h (hno.imp_right ?_)
  rintro ⟨w, hw, hkind⟩
  rwa [fetch_fst_of_mem_head? hw]
end

section
/-! SUPPORT. The statements on lanes: a lane is a signed bit slice of its word, a packed word has the wrapped values for
its digits in base `2^w`, and so packing and unpacking undo each other. -/

namespace Sys2Proof.Machine

/-! ### Signed values and their patterns (R55) -/

/-- `sint_n` is the two's-complement reading of a bit vector. -/
theorem sint_toNat {n : Nat} (hn : 1 ≤ n) (x : BitVec n) : sint n x.toNat = x.toInt := by
  have hpow : 2 ^ n = 2 * 2 ^ (n - 1) := by rw [← pow_succ', Nat.sub_add_cancel hn]
  have hhalf : x.toNat < 2 ^ (n - 1) ↔ 2 * x.toNat < 2 ^ n := by omega
  simp only [sint, BitVec.toInt_eq_toNat_cond, hhalf, Nat.cast_pow, Nat.cast_ofNat]

/-- A value of the signed `n`-bit range is the signed value of its pattern. -/
theorem sint_wrapNat {n : Nat} {z : Int} (hn : 1 ≤ n) (hz : FitsSigned n z) : sint n (wrapNat n z) = z := by
  obtain ⟨hlo, hhi⟩ := hz
  obtain ⟨slo, shi⟩ := sint_range hn (wrapNat_lt n z)
  have hpow : (2 : Int) ^ n = 2 * 2 ^ (n - 1) := by rw [← pow_succ', Nat.sub_add_cancel hn]
  have hdvd : (2 : Int) ^ n ∣ sint n (wrapNat n z) - z := Int.dvd_of_emod_eq_zero (sint_wrapNat_emod n z)
  have hsmall : |sint n (wrapNat n z) - z| < 2 ^ n := abs_lt.2 ⟨by omega, by omega⟩
  exact sub_eq_zero.1 (Int.eq_zero_of_abs_lt_dvd hdvd hsmall)

/-! ### One packed word: its digits in base `2^w` are the wrapped values -/

variable {w : Nat}

/-- The patterns a packed word holds, one to a lane. -/
def patterns (w : Nat) (zs : List Int) : List Nat := zs.map (wrapNat w)

theorem patterns_lt (zs : List Int) : ∀ p ∈ patterns w zs, p < 2 ^ w :=
  List.forall_mem_map.2 fun z _ => wrapNat_lt w z

theorem packWord_eq_ofDigits (zs : List Int) : packWord w zs = Nat.ofDigits (2 ^ w) (patterns w zs) := by
  induction zs with
  | nil => rfl
  | cons z zs ih => rw [packWord, ih, patterns, patterns, List.map_cons, Nat.ofDigits_cons]

/-- A packed word takes no more bits than its lanes have. -/
theorem packWord_lt (hw : 1 ≤ w) (zs : List Int) : packWord w zs < 2 ^ (w * zs.length) := by
  have h := Nat.ofDigits_lt_base_pow_length (Nat.one_lt_two_pow (by omega : w ≠ 0)) (patterns_lt zs)
  rwa [← packWord_eq_ofDigits, patterns, List.length_map, ← pow_mul] at h

/-- Lane `r` of a packed word is the pattern of value `r`. -/
theorem packWord_lane {zs : List Int} {r : Nat} (hr : r < zs.length) :
    packWord w zs / 2 ^ (r * w) % 2 ^ w = wrapNat w (zs.getD r 0) := by
  have hr' : r < (patterns w zs).length := by rwa [patterns, List.length_map]
  rw [packWord_eq_ofDigits, Nat.mul_comm, pow_mul,
    Nat.ofDigits_div_pow_eq_ofDigits_drop r (by positivity) _ (patterns_lt zs), List.drop_eq_getElem_cons hr',
    Nat.ofDigits_cons, Nat.add_mul_mod_self_left, Nat.mod_eq_of_lt (patterns_lt zs _ (List.getElem_mem hr')),
    List.getD_eq_getElem _ _ hr]
  exact List.getElem_map _

/-- A packed word is the sum of its patterns, each at its place. -/
theorem packWord_eq_sum (zs : List Int) :
    packWord w zs = ∑ r ∈ Finset.range zs.length, wrapNat w (zs.getD r 0) * 2 ^ (r * w) := by
  induction zs with
  | nil => rfl
  | cons z zs ih =>
    rw [packWord, ih, List.length_cons, Finset.sum_range_succ', Finset.mul_sum, Nat.add_comm]
    congr 1
    · refine Finset.sum_congr rfl fun r _ => ?_
      rw [List.getD_cons_succ, Nat.succ_mul, pow_add]
      ring
    · rw [List.getD_cons_zero, Nat.zero_mul, pow_zero, Nat.mul_one]

/-- The `k` low digits of a number in base `b`, each at its place, are the number modulo `b^k`. -/
theorem sum_digits_eq_mod (b p : Nat) (k : Nat) : ∑ r ∈ Finset.range k, p / b ^ r % b * b ^ r = p % b ^ k := by
  induction k with
  | zero => rw [Finset.sum_range_zero, pow_zero, Nat.mod_one]
  | succ k ih => rw [Finset.sum_range_succ, ih, Nat.mod_pow_succ, Nat.mul_comm (b ^ k)]

/-! ### The words of `pack_lanes` -/

/-- The values of word `j` (R70). -/
def wordLanes (v : List Int) (w j : Nat) : List Int := (v.drop (j * (32 / w))).take (32 / w)

theorem packLanes_length (v : List Int) : (packLanes v w).length = (v.length + 32 / w - 1) / (32 / w) := by
  rw [packLanes, List.length_map, List.length_range]

theorem wordLanes_length (v : List Int) (j : Nat) :
    (wordLanes v w j).length = min (32 / w) (v.length - j * (32 / w)) := by
  rw [wordLanes, List.length_take, List.length_drop]

theorem wordLanes_getD {v : List Int} {j r : Nat} (hr : r < 32 / w) :
    (wordLanes v w j).getD r 0 = v.getD (j * (32 / w) + r) 0 := by
  rw [wordLanes, List.getD_eq_getElem?_getD, List.getElem?_take_of_lt hr, List.getElem?_drop,
    List.getD_eq_getElem?_getD]

theorem width_mul_lanesPerWord (hdvd : 32 % w = 0) : w * (32 / w) = 32 :=
  Nat.mul_div_cancel' (Nat.dvd_of_mod_eq_zero hdvd)

/-- The values of one word's lanes are packed into that word alone. -/
theorem packLanes_of_oneWord {v : List Int} (hK : 0 < 32 / w) (hv : v.length = 32 / w) :
    packLanes v w = [BitVec.ofNat 32 (packWord w v)] := by
  have hone : (v.length + 32 / w - 1) / (32 / w) = 1 := by
    rw [hv]
    exact Nat.div_eq_of_lt_le (by omega) (by omega)
  rw [packLanes, hone, List.range_one, List.map_singleton, Nat.zero_mul, List.drop_zero,
    List.take_of_length_le hv.le]

/-- The lanes of a word, packed again, are the word. -/
theorem packWord_unpackLane (hdvd : 32 % w = 0) (p : Word) :
    packWord w ((List.range (32 / w)).map fun i => unpackLane p i w) = p.toNat := by
  rw [packWord_eq_sum, List.length_map, List.length_range]
  calc ∑ r ∈ Finset.range (32 / w),
        wrapNat w (((List.range (32 / w)).map fun i => unpackLane p i w).getD r 0) * 2 ^ (r * w)
      = ∑ r ∈ Finset.range (32 / w), p.toNat / (2 ^ w) ^ r % 2 ^ w * (2 ^ w) ^ r := by
        refine Finset.sum_congr rfl fun r hr => ?_
        have hr := Finset.mem_range.1 hr
        rw [List.getD_eq_getElem _ _ (by simpa using hr), List.getElem_map, List.getElem_range, unpackLane,
          Nat.mod_eq_of_lt hr, wrapNat_sint (Nat.mod_lt _ (by positivity)), Nat.mul_comm r, pow_mul]
    _ = p.toNat % (2 ^ w) ^ (32 / w) := sum_digits_eq_mod _ _ _
    _ = p.toNat := by
      rw [← pow_mul, width_mul_lanesPerWord hdvd]
      exact Nat.mod_eq_of_lt p.isLt

section LaneWidth

variable (hw : 1 ≤ w) (hdvd : 32 % w = 0)
include hw hdvd

theorem lanesPerWord_pos : 0 < 32 / w := Nat.div_pos (Nat.le_of_dvd (by decide) (Nat.dvd_of_mod_eq_zero hdvd)) hw

/-- Word `j` holds its values packed: they fit in its 32 bits. -/
theorem packLanes_getD_toNat {v : List Int} {j : Nat} (hj : j < (packLanes v w).length) :
    ((packLanes v w).getD j 0).toNat = packWord w (wordLanes v w j) := by
  have hlen : (wordLanes v w j).length ≤ 32 / w := (wordLanes_length v j).trans_le (min_le_left _ _)
  have hfits : packWord w (wordLanes v w j) < 2 ^ 32 := calc
    packWord w (wordLanes v w j) < 2 ^ (w * (wordLanes v w j).length) := packWord_lt hw _
    _ ≤ 2 ^ (w * (32 / w)) := Nat.pow_le_pow_right (by decide) (Nat.mul_le_mul_left w hlen)
    _ = 2 ^ 32 := by rw [width_mul_lanesPerWord hdvd]
  rw [List.getD_eq_getElem _ _ hj]
  simp only [packLanes, List.getElem_map, List.getElem_range, BitVec.toNat_ofNat]
  exact Nat.mod_eq_of_lt hfits

/-- Unpacking a packed value gives the signed value of its pattern. -/
theorem unpackLane_packLanes {v : List Int} {i : Nat} (hi : i < v.length) :
    unpackLane ((packLanes v w).getD (i / (32 / w)) 0) i w = sint w (wrapNat w (v.getD i 0)) := by
  have hK := lanesPerWord_pos hw hdvd
  have hmod : i % (32 / w) < 32 / w := Nat.mod_lt _ hK
  have hsplit : i / (32 / w) * (32 / w) + i % (32 / w) = i := Nat.div_add_mod' _ _
  have hj : i / (32 / w) < (packLanes v w).length := by
    rw [packLanes_length]
    refine (Nat.le_div_iff_mul_le hK).2 ?_
    rw [Nat.succ_mul]
    omega
  have hr : i % (32 / w) < (wordLanes v w (i / (32 / w))).length := by
    rw [wordLanes_length]
    omega
  rw [unpackLane, packLanes_getD_toNat hw hdvd hj, packWord_lane hr, wordLanes_getD hmod, hsplit]

end LaneWidth

/-! ### The lanes of a word among all lanes -/

/-- With `k` lanes to a word, word `j` of `n` lanes has those from `j * k` on, at most `k` of them. -/
theorem sum_lanes_of_word {n k j : Nat} (hk : 0 < k) (f : Nat → Nat) :
    ∑ i ∈ (Finset.range n).filter (fun i => i / k = j), f i =
      ∑ r ∈ Finset.range (min k (n - j * k)), f (j * k + r) := by
  symm
  refine Finset.sum_nbij (j * k + ·) ?maps ?injective ?surjective fun _ _ => rfl
  case maps =>
    intro r hr
    obtain ⟨hrk, hrn⟩ := lt_min_iff.1 (Finset.mem_range.1 hr)
    refine Finset.mem_filter.2 ⟨Finset.mem_range.2 (by omega), ?_⟩
    rw [Nat.mul_comm, Nat.mul_add_div hk, Nat.div_eq_of_lt hrk, Nat.add_zero]
  case injective => exact (add_right_injective _).injOn
  case surjective =>
    intro i hi
    obtain ⟨hin, rfl⟩ := Finset.mem_filter.1 hi
    have hin := Finset.mem_range.1 hin
    have hsplit : i / k * k + i % k = i := Nat.div_add_mod' i k
    exact ⟨i % k, Finset.mem_coe.2 (Finset.mem_range.2 (lt_min (Nat.mod_lt _ hk) (by omega))), hsplit⟩

end Sys2Proof.Machine

open Sys2Proof Sys2Proof.Machine

/-- Settles O26: the slice, as a bit vector of the lane's width, read in two's complement. -/
theorem unpackLaneSignExtendsItsSlice : Obligations.UnpackLaneSignExtendsItsSlice := by
  intro rv i w hw _
  have hslice : unpackLane rv i w = (rv.extractLsb' (i % (32 / w) * w) w).toInt := by
    rw [unpackLane, ← sint_toNat hw, BitVec.extractLsb'_toNat, Nat.shiftRight_eq_div_pow]
  exact ⟨hslice, sint_range hw (Nat.mod_lt _ (by positivity))⟩

/-- Settles O27: a word is the sum of its own lanes, which are the lanes of its number among all. -/
theorem packLanesPlacesEachWrappedValue : Obligations.PackLanesPlacesEachWrappedValue := by
  intro v w hw hdvd
  have hK := lanesPerWord_pos hw hdvd
  refine ⟨packLanes_length v, fun j hj => ?_⟩
  rw [packLanes_getD_toNat hw hdvd hj, packWord_eq_sum, wordLanes_length, sum_lanes_of_word hK]
  refine Finset.sum_congr rfl fun r hr => ?_
  obtain ⟨hr, -⟩ := lt_min_iff.1 (Finset.mem_range.1 hr)
  rw [wordLanes_getD hr, Nat.mul_add_mod_self_right, Nat.mod_eq_of_lt hr, wrapNat]

/-- Settles O28: a value is recovered from its pattern, and a word from its digits. -/
theorem packAndUnpackAreInverse : Obligations.PackAndUnpackAreInverse := by
  intro w hw hdvd
  constructor
  · intro v hv i hi
    have hfits : FitsSigned w (v.getD i 0) := by
      rw [List.getD_eq_getElem _ _ hi]
      exact hv _ (List.getElem_mem hi)
    rw [unpackLane_packLanes hw hdvd hi, sint_wrapNat hw hfits]
  · intro p
    rw [packLanes_of_oneWord (lanesPerWord_pos hw hdvd) (by rw [List.length_map, List.length_range]),
      packWord_unpackLane hdvd, BitVec.ofNat_toNat, BitVec.setWidth_eq]
end

section
/-! SUPPORT. The statements on SMAC: its sum in the signed values of the three registers, the bounds of its parts, and
the signed value of the 32 bits it commits. -/

namespace Sys2Proof.Machine

/-! ### The value of SMAC (R75) -/

/-- SMAC's sum, in the two's-complement values of the registers. -/
theorem smacSum_eq (a b c : Word) : smacSum a b c = a.toInt * b.toInt / 2 ^ 16 + c.toInt := by
  have hsint : ∀ x : Word, sint 32 x.toNat = x.toInt := sint_toNat (by decide)
  rw [smacSum, smacProduct, asr, hsint, hsint, hsint]

/-- Wrapping to the whole bus word is the two's-complement encoding. -/
theorem wrap_32 (z : Int) : wrap 32 z = BitVec.ofInt 32 z := by
  refine BitVec.eq_of_toNat_eq ?_
  rw [wrap, BitVec.toNat_ofNat, Nat.mod_eq_of_lt (wrapNat_lt 32 z), BitVec.toNat_ofInt]
  rfl

theorem smac_eq (a b c : Word) : smac a b c = BitVec.ofInt 32 (a.toInt * b.toInt / 2 ^ 16 + c.toInt) := by
  rw [smac, smacSum_eq, wrap_32]

theorem smac_comm (a b c : Word) : smac a b c = smac b a c := by
  rw [smac_eq, smac_eq, Int.mul_comm]

/-- A zero product leaves the bias (R76 (g)). -/
theorem smac_of_mul_eq_zero {a b : Word} (c : Word) (h : a.toInt * b.toInt = 0) : smac a b c = c := by
  rw [smac_eq, h, Int.zero_ediv, Int.zero_add, BitVec.ofInt_toInt]

/-- Shifting the product first, then adding, is adding the scaled bias first, then shifting (R76 (h)). -/
theorem smac_eq_shifted_sum (a b c : Word) :
    smac a b c = BitVec.ofInt 32 ((a.toInt * b.toInt + c.toInt * 2 ^ 16) / 2 ^ 16) := by
  rw [smac_eq, Int.add_mul_ediv_right _ _ (by norm_num)]

/-- The committed value is the sum modulo `2^32`. -/
theorem smac_toInt_emod (a b c : Word) : ((smac a b c).toInt - smacSum a b c) % 2 ^ 32 = 0 := by
  rw [smac, wrap_32, BitVec.toInt_ofInt]
  exact Int.emod_eq_zero_of_dvd Int.dvd_bmod_sub_self

/-- A sum in the signed 32-bit range is committed unchanged (R135). -/
theorem smac_toInt_of_exact {a b c : Word} (h : ScalarExact a b c) : (smac a b c).toInt = smacSum a b c := by
  obtain ⟨hlo, hhi⟩ := h
  rw [smac, wrap_32, BitVec.toInt_ofInt_eq_self (by decide) hlo hhi]

/-! ### Bounds (R76, R77) -/

/-- No word exceeds `2^31` in magnitude. -/
theorem abs_toInt_le (x : Word) : |x.toInt| ≤ 2 ^ 31 := abs_le.2 ⟨x.le_toInt, x.toInt_lt.le⟩

/-- Of all words, the most negative alone has the greatest magnitude. -/
theorem toInt_eq_of_abs_eq {x : Word} (h : |x.toInt| = 2 ^ 31) : x.toInt = -2 ^ 31 :=
  (eq_or_eq_neg_of_abs_eq h).resolve_left x.toInt_lt.ne

/-- Factors within a bound have a product within its square. -/
theorem abs_mul_le_mul_self {x y k : Int} (hx : |x| ≤ k) (hy : |y| ≤ k) : |x * y| ≤ k * k := by
  rw [abs_mul]
  exact mul_le_mul hx hy (abs_nonneg y) ((abs_nonneg x).trans hx)

/-- A product of two words reaches `2^62` only with its left factor the most negative word. -/
theorem toInt_eq_of_mul_eq {a b : Word} (h : a.toInt * b.toInt = 2 ^ 62) : a.toInt = -2 ^ 31 := by
  refine toInt_eq_of_abs_eq ((abs_toInt_le a).antisymm (not_lt.1 fun hlt => ?_))
  have hsmall : |a.toInt * b.toInt| < 2 ^ 62 := calc
    |a.toInt * b.toInt| = |a.toInt| * |b.toInt| := abs_mul _ _
    _ ≤ |a.toInt| * 2 ^ 31 := mul_le_mul_of_nonneg_left (abs_toInt_le b) (abs_nonneg _)
    _ < 2 ^ 31 * 2 ^ 31 := mul_lt_mul_of_pos_right hlt (by positivity)
    _ = 2 ^ 62 := by norm_num
  rw [h] at hsmall
  exact absurd hsmall (by norm_num)

/-- The shift keeps a bound that is a multiple of its scale. -/
theorem abs_ediv_le {z k : Int} (h : |z| ≤ k * 2 ^ 16) : |z / 2 ^ 16| ≤ k := by
  rw [abs_le] at h ⊢
  omega

/-! ### SMAC as a step -/

theorem afterCompute_eq (f : Fsm) : afterCompute f = if f = .full then .finish else .idle := by cases f <;> rfl

/-- SMAC in COMPUTE of a scalar engine commits, leaves COMPUTE and consumes START (R75, R97). -/
theorem exec_smac {s : State} (hk : s.cfg.kind = .scalar) (hs : s.state = .compute) :
    exec .smac s = .next { s with
      result := smac (s.inputs.getD 0 0) (s.weights.getD 0 0) s.bias
      state := afterCompute s.cfg.fsm
      control := s.control &&& 0xFE } := by
  simp [exec, execSmac, whenSelected, hk, hs, consumeStart, startCleared_eq_and, setControl, setState, readInput,
    readWeight]

end Sys2Proof.Machine

open Sys2Proof Sys2Proof.Machine

/-- Settles O29: the committed word and the state after COMPUTE, in the statement's terms. -/
theorem smacCommitsTheScaledProductPlusBias : Obligations.SmacCommitsTheScaledProductPlusBias := by
  intro s _ hk hs
  rw [exec_smac hk hs, smac_eq, afterCompute_eq]
  norm_num

/-- Settles O30, law by law. -/
theorem smacObeysItsIntegerLaws : Obligations.SmacObeysItsIntegerLaws := by
  intro a b c product scaled
  have hproduct : |product| ≤ 2 ^ 62 := abs_mul_le_mul_self (abs_toInt_le a) (abs_toInt_le b)
  refine ⟨⟨hproduct, fun h => ⟨toInt_eq_of_mul_eq h, toInt_eq_of_mul_eq ((Int.mul_comm _ _).trans h)⟩⟩,
    ⟨Int.ediv_mul_le product (by decide), Int.lt_ediv_add_one_mul_self product (by decide)⟩,
    ⟨abs_ediv_le hproduct, abs_toInt_le c⟩, ?exact, ?congruent, smac_comm a b c, ?one, ?zero, smac_eq_shifted_sum a b c⟩
  case exact =>
    by_cases h : ScalarExact a b c
    · exact .inl ((smac_toInt_of_exact h).trans (smacSum_eq a b c))
    · rw [ScalarExact, FitsSigned, smacSum_eq] at h
      exact .inr (by omega)
  case congruent => exact smacSum_eq a b c ▸ smac_toInt_emod a b c
  case one =>
    rintro rfl
    exact Int.mul_ediv_cancel a.toInt (by decide)
  case zero =>
    rintro (rfl | rfl)
    · exact smac_of_mul_eq_zero c (Int.zero_mul _)
    · exact smac_of_mul_eq_zero c (Int.mul_zero _)

/-- Settles O31: the scaled product is at most `2^30` in magnitude and the bias `2^23`, so the sum fits 32 bits. -/
theorem smacIsExactInsideTheDocumentedRange : Obligations.SmacIsExactInsideTheDocumentedRange := by
  intro a b c ha hb hc
  have hscaled : |a.toInt * b.toInt / 2 ^ 16| ≤ 2 ^ 30 := abs_ediv_le (abs_mul_le_mul_self ha hb)
  have hsum : |a.toInt * b.toInt / 2 ^ 16 + c.toInt| ≤ 2 ^ 30 + 2 ^ 23 := (abs_add_le _ _).trans (add_le_add hscaled hc)
  have hexact : ScalarExact a b c := by
    obtain ⟨hlo, hhi⟩ := abs_le.1 hsum
    rw [ScalarExact, FitsSigned, smacSum_eq]
    omega
  exact ⟨hexact, hscaled, hsum, (smac_toInt_of_exact hexact).trans (smacSum_eq a b c)⟩
end

section
/-! SUPPORT. The statements on the lane products and the reduction tree: the bounds of a product of two signed lanes,
what one level of the tree does, how many levels there are, and the sum every level keeps. -/

namespace Sys2Proof.Machine

/-! ### Lanes and their products (R18, R81) -/

/-- The numbers of a valid vector configuration (R8). -/
theorem valid_vector {c : Config} (hvalid : c.valid = true) (hkind : c.kind = .vector) :
    1 ≤ c.n ∧ (1 ≤ c.w ∧ 32 % c.w = 0) ∧ 1 ≤ c.b ∧ 1 ≤ c.r ∧ c.r ≤ 32 := by
  simp only [Config.valid, hkind, Bool.and_eq_true, decide_eq_true_eq] at hvalid
  omega

theorem lanesPerReg_of_vector {c : Config} (hkind : c.kind = .vector) : c.lanesPerReg = 32 / c.w := by
  rw [Config.lanesPerReg, hkind]

theorem lane_fits {c : Config} (hvalid : c.valid = true) (hkind : c.kind = .vector) (regs : List Word) (i : Nat) :
    FitsSigned c.w (lane c regs i) := by
  obtain ⟨-, ⟨hw, hdvd⟩, -⟩ := valid_vector hvalid hkind
  exact (unpackLaneSignExtendsItsSlice _ i c.w hw hdvd).2

/-- The bound of a lane product, `2^(2W-2)`, is the square of the lane's bound. -/
theorem two_pow_product_bound (w : Nat) : (2 : Int) ^ (2 * w - 2) = 2 ^ (w - 1) * 2 ^ (w - 1) := by
  rw [← pow_add]
  congr 1
  omega

/-- The least product of two values of a range `[-k, k)` is that of its two ends, `-k` and `k - 1`. -/
theorem neg_mul_add_le_mul {x y k : Int} (hx : -k ≤ x ∧ x < k) (hy : -k ≤ y ∧ y < k) : -(k * k) + k ≤ x * y := by
  obtain ⟨hxlo, hxhi⟩ := hx
  obtain ⟨hylo, hyhi⟩ := hy
  rcases le_total 0 x with h | h
  · linarith [mul_nonneg h (by omega : 0 ≤ y + k), mul_nonneg (by omega : 0 ≤ k - 1 - x) (by omega : 0 ≤ k)]
  · linarith [mul_nonneg (neg_nonneg.2 h) (by omega : 0 ≤ k - 1 - y),
      mul_nonneg (by omega : 0 ≤ x + k) (by omega : 0 ≤ k - 1)]

/-- Two values of a range `[-k, k)` reach the product `k * k` only if the left one is `-k`. -/
theorem eq_neg_of_mul_eq {x y k : Int} (hx : -k ≤ x ∧ x < k) (hy : -k ≤ y ∧ y < k) (h : x * y = k * k) : x = -k := by
  have hk : 0 < k := by omega
  refine (hx.1.antisymm (not_lt.1 fun hlt => ?_)).symm
  have hsmall : |x * y| < k * k := calc
    |x * y| = |x| * |y| := abs_mul x y
    _ ≤ |x| * k := mul_le_mul_of_nonneg_left (abs_le.2 ⟨hy.1, hy.2.le⟩) (abs_nonneg x)
    _ < k * k := mul_lt_mul_of_pos_right (abs_lt.2 ⟨hlt, hx.2⟩) hk
  exact hsmall.not_ge (h ▸ le_abs_self _)

theorem laneProducts_length (c : Config) (xs ys : List Word) : (laneProducts c xs ys).length = c.n := by
  rw [laneProducts, List.length_map, List.length_range]

theorem laneProducts_getD {c : Config} {i : Nat} (xs ys : List Word) (hi : i < c.n) :
    (laneProducts c xs ys).getD i 0 = lane c xs i * lane c ys i := by
  rw [List.getD_eq_getElem _ _ ((laneProducts_length c xs ys).symm ▸ hi)]
  simp only [laneProducts, List.getElem_map, List.getElem_range]

theorem abs_lane_mul_le {c : Config} (hvalid : c.valid = true) (hkind : c.kind = .vector) (xs ys : List Word)
    (i : Nat) : |lane c xs i * lane c ys i| ≤ 2 ^ (2 * c.w - 2) := by
  obtain ⟨hxlo, hxhi⟩ := lane_fits hvalid hkind xs i
  obtain ⟨hylo, hyhi⟩ := lane_fits hvalid hkind ys i
  rw [two_pow_product_bound]
  exact abs_mul_le_mul_self (abs_le.2 ⟨hxlo, hxhi.le⟩) (abs_le.2 ⟨hylo, hyhi.le⟩)

theorem abs_le_of_mem_laneProducts {c : Config} (hvalid : c.valid = true) (hkind : c.kind = .vector)
    (xs ys : List Word) : ∀ z ∈ laneProducts c xs ys, |z| ≤ 2 ^ (2 * c.w - 2) :=
  List.forall_mem_map.2 fun i _ => abs_lane_mul_le hvalid hkind xs ys i

/-- A value within half of what `n` signed bits hold fits them. -/
theorem fitsSigned_of_abs_le {n e : Nat} {z : Int} (hz : |z| ≤ 2 ^ e) (he : e + 1 < n) : FitsSigned n z := by
  have hlt : (2 : Int) ^ e < 2 ^ (n - 1) := pow_lt_pow_right₀ (by decide) (by omega)
  obtain ⟨hlo, hhi⟩ := abs_lt.1 (hz.trans_lt hlt)
  exact ⟨hlo.le, hhi⟩

/-! ### One level of the tree (R82) -/

/-- Outside a list `getD` is 0, so an unpaired last element is the sum of its pair. -/
theorem pairLevel_getD : ∀ (p : List Int) (j : Nat),
    (pairLevel p).getD j 0 = p.getD (2 * j) 0 + p.getD (2 * j + 1) 0
  | [], _ => rfl
  | [a], 0 => (Int.add_zero a).symm
  | [_], _ + 1 => rfl
  | _ :: _ :: _, 0 => rfl
  | _ :: _ :: rest, j + 1 => pairLevel_getD rest j

/-- A level doubles the bound of the values at most. -/
theorem abs_le_of_mem_pairLevel {k : Int} : ∀ p : List Int, (∀ z ∈ p, |z| ≤ k) → ∀ z ∈ pairLevel p, |z| ≤ 2 * k
  | [], _ => fun z hz => absurd hz List.not_mem_nil
  | [a], h => by
    have ha : |a| ≤ k := h a List.mem_cons_self
    have hk : 0 ≤ k := (abs_nonneg a).trans ha
    exact List.forall_mem_singleton.2 (by omega)
  | a :: b :: rest, h => by
    obtain ⟨ha, hb, hrest⟩ : |a| ≤ k ∧ |b| ≤ k ∧ ∀ z ∈ rest, |z| ≤ k := by
      simpa only [List.forall_mem_cons] using h
    have hsum : |a + b| ≤ 2 * k := (abs_add_le a b).trans (by omega)
    exact List.forall_mem_cons.2 ⟨hsum, abs_le_of_mem_pairLevel rest hrest⟩

/-! ### The levels of the tree -/

theorem ceilLog2_eq_clog (n : Nat) : ceilLog2 n = Nat.clog 2 n := by
  have hfound : (List.range (n + 1)).find? (fun e => n ≤ 2 ^ e) = some (Nat.clog 2 n) := by
    refine List.find?_range_eq_some.2 ⟨?_, ?_, fun e he => ?_⟩
    · exact decide_eq_true (Nat.le_pow_clog (by decide) n)
    · exact List.mem_range.2 (Nat.lt_succ_of_le (Nat.clog_le_of_le_pow Nat.lt_two_pow_self.le))
    · simpa using Nat.pow_lt_of_lt_clog he
  rw [ceilLog2, hfound, Option.getD_some]

/-- Each level halves the count, rounding up. -/
theorem length_levels_le_iff (k e : Nat) (p : List Int) :
    (pairLevel^[e] p).length ≤ k ↔ p.length ≤ k * 2 ^ e := by
  induction e generalizing p with
  | zero => rw [Function.iterate_zero_apply, pow_zero, Nat.mul_one]
  | succ e ih =>
    rw [Function.iterate_succ_apply, ih, pairLevel_length, pow_succ, ← Nat.mul_assoc]
    omega

/-- One value remains, or none, from level `ceil(log2 N)` on and not before. -/
theorem length_levels_le_one_iff (e : Nat) (p : List Int) :
    (pairLevel^[e] p).length ≤ 1 ↔ ceilLog2 p.length ≤ e := by
  rw [length_levels_le_iff, Nat.one_mul, ceilLog2_eq_clog, Nat.clog_le_iff_le_pow (by decide)]

theorem length_last_level {p : List Int} (hp : p ≠ []) : (pairLevel^[ceilLog2 p.length] p).length = 1 := by
  have hle := (length_levels_le_one_iff (ceilLog2 p.length) p).2 le_rfl
  have hpos := (length_levels_le_iff 0 (ceilLog2 p.length) p).not.2 (by simpa using hp)
  omega

theorem sum_levels (e : Nat) (p : List Int) : (pairLevel^[e] p).sum = p.sum := by
  induction e generalizing p with
  | zero => rfl
  | succ e ih => rw [Function.iterate_succ_apply, ih, pairLevel_sum]

theorem abs_le_of_mem_levels {k : Int} (t : Nat) {p : List Int} (h : ∀ z ∈ p, |z| ≤ k) :
    ∀ z ∈ pairLevel^[t] p, |z| ≤ 2 ^ t * k := by
  induction t with
  | zero => rwa [Function.iterate_zero_apply, pow_zero, Int.one_mul]
  | succ t ih =>
    rw [Function.iterate_succ_apply', pow_succ', Int.mul_assoc]
    exact abs_le_of_mem_pairLevel _ ih

/-! ### The value of the tree (R83) -/

theorem headD_eq_sum {p : List Int} (hp : p.length ≤ 1) : p.headD 0 = p.sum := by
  match p, hp with
  | [], _ => rfl
  | [z], _ => exact List.sum_singleton.symm

/-- With fuel for its levels the tree keeps the sum of its list. -/
theorem reduceLevels_eq_sum {fuel : Nat} {p : List Int} (hp : p.length ≤ fuel + 1) : reduceLevels fuel p = p.sum := by
  induction fuel generalizing p with
  | zero => exact headD_eq_sum hp
  | succ fuel ih =>
    rw [reduceLevels]
    split_ifs with hone
    · exact headD_eq_sum hone
    · rw [ih (by rw [pairLevel_length]; omega), pairLevel_sum]

theorem treeReduce_eq_sum (p : List Int) : treeReduce p = p.sum := reduceLevels_eq_sum (Nat.le_succ _)

/-- The one value of the last level is the tree's. -/
theorem treeReduce_mem_last_level {p : List Int} (hp : p ≠ []) :
    treeReduce p ∈ pairLevel^[ceilLog2 p.length] p := by
  obtain ⟨z, hz⟩ := List.length_eq_one_iff.1 (length_last_level hp)
  rw [treeReduce_eq_sum, ← sum_levels (ceilLog2 p.length), hz, List.sum_singleton]
  exact List.mem_singleton_self z

theorem macSum_eq_sum (c : Config) (xs ys : List Word) :
    macSum c xs ys = ∑ i ∈ Finset.range c.n, lane c xs i * lane c ys i := treeReduce_eq_sum _

/-- The sum of the products is the value of the level where `2^t` first reaches `N` (R83). -/
theorem macSum_fits {c : Config} (hvalid : c.valid = true) (hkind : c.kind = .vector) (xs ys : List Word) :
    FitsSigned c.accWidth (macSum c xs ys) := by
  obtain ⟨hn, ⟨hw, -⟩, -⟩ := valid_vector hvalid hkind
  have hne : laneProducts c xs ys ≠ [] := List.ne_nil_of_length_pos (by rwa [laneProducts_length])
  have hbound := abs_le_of_mem_levels _ (abs_le_of_mem_laneProducts hvalid hkind xs ys) _
    (treeReduce_mem_last_level hne)
  rw [laneProducts_length, ← pow_add] at hbound
  exact fitsSigned_of_abs_le hbound (by rw [Config.accWidth, Config.productWidth]; omega)

end Sys2Proof.Machine

open Sys2Proof Sys2Proof.Machine

/-- Settles O32: both lanes are in the signed `W`-bit range, whose products have these bounds. -/
theorem laneProductsAreExactAndBounded : Obligations.LaneProductsAreExactAndBounded := by
  intro c xs ys i hvalid hkind x y
  obtain ⟨-, ⟨hw, -⟩, -⟩ := valid_vector hvalid hkind
  have hx : FitsSigned c.w x := lane_fits hvalid hkind xs i
  have hy : FitsSigned c.w y := lane_fits hvalid hkind ys i
  have hbound : |x * y| ≤ 2 ^ (2 * c.w - 2) := abs_lane_mul_le hvalid hkind xs ys i
  refine ⟨laneProducts_getD xs ys, laneProducts_length c xs ys, ?lower, (abs_le.1 hbound).2, ?maximum,
    fitsSigned_of_abs_le hbound (by rw [Config.productWidth]; omega)⟩
  case lower =>
    rw [two_pow_product_bound]
    exact neg_mul_add_le_mul hx hy
  case maximum =>
    rw [two_pow_product_bound]
    exact fun h => ⟨eq_neg_of_mul_eq hx hy h, eq_neg_of_mul_eq hy hx ((Int.mul_comm y x).trans h)⟩

/-- Settles O33: a level element by element, the levels counted by `ceil(log2 N)`, and the sum every level keeps. -/
theorem reductionTreePairsAdjacentElements : Obligations.ReductionTreePairsAdjacentElements := by
  refine ⟨fun p => ⟨pairLevel_length p, fun j _ => ?_⟩, fun z => rfl, fun p _ => ?_, fun p hp =>
    ⟨length_last_level hp, fun e he => not_le.1 fun hle => ?_⟩⟩
  · rw [pairLevel_getD]
    split_ifs with hpair
    · rfl
    · rw [List.getD_eq_default _ _ (not_lt.1 hpair), Int.add_zero]
  · rw [treeReduce_eq_sum, treeReduce_eq_sum, pairLevel_sum]
  · exact he.not_ge ((length_levels_le_one_iff e p).1 hle)

/-- Settles O34: each level keeps the sum and at most doubles the bound. -/
theorem reductionTreeIsThePlainSum : Obligations.ReductionTreeIsThePlainSum :=
  ⟨treeReduce_eq_sum, macSum_eq_sum, fun _ xs ys t hvalid hkind z hz =>
    abs_le.1 (abs_le_of_mem_levels t (abs_le_of_mem_laneProducts hvalid hkind xs ys) z hz),
    fun _ xs ys hvalid hkind => macSum_fits hvalid hkind xs ys⟩
end

section
/-! SUPPORT. The statements on VDOT: the range of `final`, the bits of it that the narrowing takes, and the commit,
which depends on the lanes below `N` and on BIAS alone. -/

namespace Sys2Proof.Machine

/-! ### The bias and `final` (R84) -/

theorem biasWidth_of_vector {c : Config} (hkind : c.kind = .vector) : c.biasWidth = c.b := by
  rw [Config.biasWidth, hkind]

theorem resultWidth_of_vector {c : Config} (hkind : c.kind = .vector) : c.resultWidth = c.r := by
  rw [Config.resultWidth, hkind]

/-- The bias of `final` is the `B`-bit pattern in BIAS, sign-extended. -/
theorem vdotFinal_eq {c : Config} (hvalid : c.valid = true) (hkind : c.kind = .vector) (xs ys : List Word)
    {bias : Word} (hbias : bias.toNat < 2 ^ c.b) :
    vdotFinal c xs ys bias = macSum c xs ys + (bias.setWidth c.b).toInt := by
  obtain ⟨-, -, hb, -⟩ := valid_vector hvalid hkind
  rw [vdotFinal, biasWidth_of_vector hkind, ← sint_toNat hb, BitVec.toNat_setWidth, Nat.mod_eq_of_lt hbias]

/-- A sum of two signed values needs one bit more than the wider of them. -/
theorem fitsSigned_add {m n : Nat} {x y : Int} (hpos : 1 ≤ n) (hx : FitsSigned m x) (hy : FitsSigned n y) :
    FitsSigned (max m n + 1) (x + y) := by
  obtain ⟨hxlo, hxhi⟩ := hx
  obtain ⟨hylo, hyhi⟩ := hy
  have hm : (2 : Int) ^ (m - 1) ≤ 2 ^ (max m n - 1) := pow_le_pow_right₀ (by decide) (by omega)
  have hn : (2 : Int) ^ (n - 1) ≤ 2 ^ (max m n - 1) := pow_le_pow_right₀ (by decide) (by omega)
  have hdouble : (2 : Int) ^ max m n = 2 * 2 ^ (max m n - 1) := by rw [← pow_succ', Nat.sub_add_cancel (by omega)]
  rw [FitsSigned, Nat.add_sub_cancel, hdouble]
  omega

/-! ### The narrowing (R85) -/

/-- Bits `s + r - 1 : s` of a number depend on its residue modulo `2^(s+r)` alone. -/
theorem ediv_two_pow_modEq {x y : Int} {s r : Nat} (h : x ≡ y [ZMOD 2 ^ (s + r)]) :
    x / 2 ^ s ≡ y / 2 ^ s [ZMOD 2 ^ r] := by
  obtain ⟨t, rfl⟩ := Int.modEq_iff_add_fac.1 h
  have hshift : (x + 2 ^ (s + r) * t) / 2 ^ s = x / 2 ^ s + 2 ^ r * t := by
    rw [pow_add, Int.mul_assoc, Int.add_mul_ediv_left _ _ (by positivity)]
  exact Int.modEq_iff_add_fac.2 ⟨t, hshift⟩

/-- Congruent values have one pattern. -/
theorem wrap_congr {n : Nat} {x y : Int} (h : x ≡ y [ZMOD 2 ^ n]) : wrap n x = wrap n y :=
  congrArg (fun z : Int => BitVec.ofNat 32 z.toNat) h

theorem narrow_congr {c : Config} (hkind : c.kind = .vector) {x y : Int} (h : x ≡ y [ZMOD 2 ^ (c.shift + c.r)]) :
    narrow c x = narrow c y := by
  rw [narrow, narrow, resultWidth_of_vector hkind]
  exact wrap_congr (ediv_two_pow_modEq h)

/-- A wrapped value is its two's-complement encoding, zero-extended to the word. -/
theorem wrap_eq_setWidth (n : Nat) (z : Int) : wrap n z = (BitVec.ofInt n z).setWidth 32 := by
  refine BitVec.eq_of_toNat_eq ?_
  rw [wrap, BitVec.toNat_ofNat, BitVec.toNat_setWidth, BitVec.toNat_ofInt]
  rfl

theorem wrap_toNat {n : Nat} (hn : n ≤ 32) (z : Int) : (wrap n z).toNat = wrapNat n z := by
  rw [wrap, BitVec.toNat_ofNat]
  exact Nat.mod_eq_of_lt ((wrapNat_lt n z).trans_le (Nat.pow_le_pow_right (by decide) hn))

/-- The low `n` bits of a pattern are those of the number, and there are none above. -/
theorem wrapNat_testBit (n : Nat) (z : Int) (j : Nat) :
    (wrapNat n z).testBit j = (decide (j < n) && decide (z / 2 ^ j % 2 = 1)) := by
  by_cases hj : j < n
  · have hmod : (wrapNat n z : Int) ≡ z [ZMOD 2 ^ (j + 1)] := by
      rw [wrapNat_cast]
      exact (Int.mod_modEq z (2 ^ n)).of_dvd (pow_dvd_pow 2 hj)
    have hbit : (wrapNat n z : Int) / 2 ^ j % 2 = z / 2 ^ j % 2 := ediv_two_pow_modEq hmod
    rw [decide_eq_true hj, Bool.true_and, Nat.testBit_eq_decide_div_mod_eq, ← hbit]
    norm_cast
  · rw [decide_eq_false hj, Bool.false_and]
    exact Nat.testBit_lt_two_pow ((wrapNat_lt n z).trans_le (Nat.pow_le_pow_right (by decide) (not_lt.1 hj)))

theorem narrow_toNat {c : Config} (hvalid : c.valid = true) (hkind : c.kind = .vector) (z : Int) :
    (narrow c z).toNat = wrapNat c.r (asr z c.shift) := by
  obtain ⟨-, -, -, -, hr⟩ := valid_vector hvalid hkind
  rw [narrow, resultWidth_of_vector hkind, wrap_toNat hr]

/-- The narrowing takes bits `SHIFT + R - 1 : SHIFT`. -/
theorem narrow_getLsbD {c : Config} (hvalid : c.valid = true) (hkind : c.kind = .vector) (z : Int) (j : Nat) :
    (narrow c z).getLsbD j = (decide (j < c.r) && decide (z / 2 ^ (c.shift + j) % 2 = 1)) := by
  rw [← BitVec.testBit_toNat, narrow_toNat hvalid hkind, wrapNat_testBit, asr,
    Int.ediv_ediv_of_nonneg (by positivity), ← pow_add]

theorem fitsSigned_mono {m n : Nat} (h : m ≤ n) {z : Int} (hz : FitsSigned m z) : FitsSigned n z := by
  have hpow : (2 : Int) ^ (m - 1) ≤ 2 ^ (n - 1) := pow_le_pow_right₀ (by decide) (by omega)
  exact ⟨(neg_le_neg hpow).trans hz.1, hz.2.trans_le hpow⟩

/-! ### VDOT as a step (R80) -/

/-- What an operand register's bits give for lane `i`. -/
theorem lane_eq_slice {c : Config} (hvalid : c.valid = true) (hkind : c.kind = .vector) (regs : List Word) (i : Nat) :
    lane c regs i = ((regs.getD (i / (32 / c.w)) 0).extractLsb' (i % (32 / c.w) * c.w) c.w).toInt := by
  obtain ⟨-, ⟨hw, hdvd⟩, -⟩ := valid_vector hvalid hkind
  rw [lane, lanesPerReg_of_vector hkind, (unpackLaneSignExtendsItsSlice _ i c.w hw hdvd).1]

/-- VDOT in COMPUTE of a vector engine commits, leaves COMPUTE and consumes START (R80, R97). -/
theorem exec_vdot {s : State} (hkind : s.cfg.kind = .vector) (hs : s.state = .compute) :
    exec .vdot s = .next { s with
      result := vdot s.cfg s.inputs s.weights s.bias
      state := afterCompute s.cfg.fsm
      control := s.control &&& 0xFE } := by
  simp [exec, execVdot, whenSelected, hkind, hs, consumeStart, startCleared_eq_and, setControl, setState]

theorem exec_vdot_result {s t : State} (h : exec .vdot s = .next t) :
    t.result = vdot s.cfg s.inputs s.weights s.bias := by
  obtain ⟨-, rfl⟩ := whenSelected_next.1 h
  rfl

/-- The lanes below `N` and the bias give the value (R18, R87). -/
theorem vdot_congr {c : Config} {xs xs' ys ys' : List Word} (bias : Word)
    (h : ∀ i, i < c.n → lane c xs i = lane c xs' i ∧ lane c ys i = lane c ys' i) :
    vdot c xs ys bias = vdot c xs' ys' bias := by
  have hsum : macSum c xs ys = macSum c xs' ys' := by
    rw [macSum_eq_sum, macSum_eq_sum]
    refine Finset.sum_congr rfl fun i hi => ?_
    obtain ⟨hx, hy⟩ := h i (Finset.mem_range.1 hi)
    rw [hx, hy]
  rw [vdot, vdot, vdotFinal, vdotFinal, hsum]

end Sys2Proof.Machine

open Sys2Proof Sys2Proof.Machine

/-- Settles O35: the ranges of the sum and of the bias add up, and the narrowing sees `final` modulo `2^(SHIFT + R)`. -/
theorem finalFitsItsWidthAndHighBitsCannotMatter : Obligations.FinalFitsItsWidthAndHighBitsCannotMatter := by
  intro c xs ys bias hvalid hkind hbias
  obtain ⟨-, -, hb, -⟩ := valid_vector hvalid hkind
  have hmac : FitsSigned c.accWidth (macSum c xs ys) := macSum_fits hvalid hkind xs ys
  have hsigned : FitsSigned c.b (bias.setWidth c.b).toInt := ⟨BitVec.le_toInt _, BitVec.toInt_lt⟩
  have hfits : FitsSigned c.finalWidth (macSum c xs ys + (bias.setWidth c.b).toInt) := fitsSigned_add hb hmac hsigned
  rw [vdotFinal_eq hvalid hkind xs ys hbias]
  refine ⟨rfl, ?lower, ?upper, hfits, fun h _ hh => narrow_congr hkind (Int.ModEq.of_dvd (pow_dvd_pow 2 hh) ?high)⟩
  case lower =>
    rw [Int.sub_eq_add_neg]
    exact add_le_add hmac.1 hsigned.1
  case upper => exact Int.le_sub_one_of_lt (add_lt_add hmac.2 hsigned.2)
  case high => exact Int.emod_eq_emod_iff_emod_sub_eq_zero.2 (sint_wrapNat_emod h _)

/-- Settles O36: RESULT is the wrapped quotient, so its value is the quotient modulo `2^R`. -/
theorem narrowingTakesItsBitSlice : Obligations.NarrowingTakesItsBitSlice := by
  intro c z hvalid hkind
  obtain ⟨-, -, -, hr, -⟩ := valid_vector hvalid hkind
  have hexact (hfits : FitsSigned c.r (asr z c.shift)) : sint c.r (narrow c z).toNat = asr z c.shift := by
    rw [narrow_toNat hvalid hkind, sint_wrapNat hr hfits]
  refine ⟨narrow_getLsbD hvalid hkind z, ⟨Int.ediv_mul_le z (by positivity),
    Int.lt_ediv_add_one_mul_self z (by positivity)⟩, ?congruent, hexact, fun hshift hF hfits => ?whole⟩
  case congruent =>
    rw [narrow_toNat hvalid hkind]
    exact sint_wrapNat_emod _ _
  case whole =>
    have hasr : asr z c.shift = z := by rw [hshift, asr, pow_zero, Int.ediv_one]
    rw [hasr] at hexact
    exact hexact (fitsSigned_mono hF hfits)

/-- Settles O37: the lanes are slices, the tree their plain dot product, and RESULT takes `final` narrowed. -/
theorem vdotCommitsTheNarrowedDotProduct : Obligations.VdotCommitsTheNarrowedDotProduct := by
  intro s ⟨⟨hvalid, _, _, hbias, _⟩, _⟩ hkind hs slice
  have hlane (regs : List Word) (i : Nat) : lane s.cfg regs i = slice regs i := lane_eq_slice hvalid hkind regs i
  rw [biasWidth_of_vector hkind] at hbias
  rw [exec_vdot hkind hs, afterCompute_eq, vdot, narrow, resultWidth_of_vector hkind, wrap_eq_setWidth, asr,
    vdotFinal_eq hvalid hkind _ _ hbias, macSum_eq_sum]
  simp only [hlane]

/-- Settles O38: what is committed is a function of the lanes below `N` and of BIAS. -/
theorem vdotReadsOnlyItsLanesAndBias : Obligations.VdotReadsOnlyItsLanesAndBias := by
  intro s s' t t' hcfg hbias hlanes ht ht'
  rw [exec_vdot_result ht, exec_vdot_result ht', ← hcfg, ← hbias]
  exact vdot_congr s.bias hlanes
end

section
/-! SUPPORT. The statements on the control state machine: the tick as a total function of the state and the sampled
pattern, the rows and commands that are that tick, and runs of ticks as its iterates. -/

namespace Sys2Proof.Machine

variable {s t : State} {c c' : Flags8}

/-! ### The transition table (R108) -/

/-- A running engine is in a state its variant has (R19). -/
theorem State.Running.has (hs : s.Running) : s.cfg.fsm.has s.state = true := by
  obtain ⟨⟨_, _, _, _, _, hhas⟩, _⟩ := hs
  exact hhas

theorem has_compute (f : Fsm) : f.has .compute = true := by cases f <;> rfl

/-- The table of R108 made total: in a state the variant lacks, where no tick can be, it answers IDLE. -/
def nextOf (f : Fsm) (st : ControlState) (cmd : Command) : ControlState := (nextState f st cmd).getD .idle

/-- Over the states a variant has it is the model's table. -/
theorem nextState_eq_nextOf {f : Fsm} {st : ControlState} (h : f.has st = true) (cmd : Command) :
    nextState f st cmd = some (nextOf f st cmd) := by
  obtain ⟨st', hst', -⟩ := nextState_of_has h cmd
  rw [nextOf, hst', Option.getD_some]

@[simp] theorem nextOf_idle_start (f : Fsm) : nextOf f .idle .start = .compute := by cases f <;> rfl

@[simp] theorem nextOf_idle_reset (f : Fsm) : nextOf f .idle .reset = if f = .full then .reset else .idle := by
  cases f <;> rfl

@[simp] theorem nextOf_idle_nop (f : Fsm) : nextOf f .idle .nop = .idle := by cases f <;> rfl

@[simp] theorem nextOf_compute (f : Fsm) (cmd : Command) :
    nextOf f .compute cmd = if f = .full then .finish else .idle := by cases f <;> rfl

@[simp] theorem nextOf_finish (f : Fsm) (cmd : Command) : nextOf f .finish cmd = .idle := by cases f <;> rfl

@[simp] theorem nextOf_reset (f : Fsm) (cmd : Command) : nextOf f .reset cmd = .idle := by cases f <;> rfl

/-- The table does not look at the command outside IDLE. -/
theorem nextOf_of_ne_idle {f : Fsm} {st : ControlState} (h : st ≠ .idle) (cmd cmd' : Command) :
    nextOf f st cmd = nextOf f st cmd' := by
  rw [nextOf, nextState_of_ne_idle h cmd cmd', nextOf]

/-- Outside IDLE the table leads to IDLE, or through FINISH. -/
theorem nextOf_of_ne_idle_cases {f : Fsm} {st : ControlState} (h : st ≠ .idle) (cmd : Command) :
    nextOf f st cmd = .idle ∨ nextOf f st cmd = .finish := by
  cases st with
  | idle => exact absurd rfl h
  | compute =>
    rw [nextOf_compute]
    split_ifs
    · exact .inr rfl
    · exact .inl rfl
  | finish => exact .inl (nextOf_finish f cmd)
  | reset => exact .inl (nextOf_reset f cmd)

theorem nextOf_ne_compute {f : Fsm} {st : ControlState} (h : st ≠ .idle) (cmd : Command) :
    nextOf f st cmd ≠ .compute := by
  obtain hidle | hfinish := nextOf_of_ne_idle_cases (f := f) h cmd
  · rw [hidle]; decide
  · rw [hfinish]; decide

/-! ### The sampled pattern (R52) -/

theorem commandOf_reset (h0 : c.getLsbD 0 = false) (h1 : c.getLsbD 1 = true) : commandOf c = .reset := by
  rw [commandOf, h0, h1]; rfl

theorem commandOf_nop (h0 : c.getLsbD 0 = false) (h1 : c.getLsbD 1 = false) : commandOf c = .nop := by
  rw [commandOf, h0, h1]; rfl

/-- What the full variant does in IDLE, by the two low bits of the pattern (R92). -/
theorem nextOf_full_idle (c : Flags8) : nextOf .full .idle (commandOf c) =
    if c.getLsbD 0 then .compute else if c.getLsbD 1 then .reset else .idle := by
  unfold commandOf
  split_ifs <;> rfl

/-- What the minimal variant does in IDLE: only START counts (R99). -/
theorem nextOf_minimal_idle (c : Flags8) :
    nextOf .minimal .idle (commandOf c) = if c.getLsbD 0 then .compute else .idle := by
  unfold commandOf
  split_ifs <;> rfl

/-- Without START there is nothing to consume. -/
theorem and_0xFE_of_getLsbD_zero (h : c.getLsbD 0 = false) : c &&& 0xFE = c := by revert c; decide

/-- The pattern of a START: the command it is, and what is left when it is consumed. -/
theorem startPattern (x : BitVec 5) (mode reset : BitVec 1) :
    commandOf (x ++ mode ++ reset ++ 0b1#1) = .start ∧
      (x ++ mode ++ reset ++ 0b1#1 : Flags8) &&& 0xFE = x ++ mode ++ reset ++ 0#1 := by
  revert x mode reset; decide

/-- The pattern of a RESET, which has no START to consume; with one it is that of a START. -/
theorem resetPattern (x : BitVec 5) (mode : BitVec 1) :
    commandOf (x ++ mode ++ 0b10#2) = .reset ∧ (x ++ mode ++ 0b10#2 : Flags8) &&& 0xFE = x ++ mode ++ 0b10#2 ∧
      (x ++ mode ++ (1 : BitVec 1) ++ 0b1#1 : Flags8) &&& 0xFE = x ++ mode ++ 0b10#2 := by
  revert x mode; decide

/-- The pattern of a NOP, likewise. -/
theorem nopPattern (x : BitVec 5) (mode : BitVec 1) :
    commandOf (x ++ mode ++ 0b00#2) = .nop ∧ (x ++ mode ++ 0b00#2 : Flags8) &&& 0xFE = x ++ mode ++ 0b00#2 ∧
      (x ++ mode ++ (0 : BitVec 1) ++ 0b1#1 : Flags8) &&& 0xFE = x ++ mode ++ 0b00#2 := by
  revert x mode; decide

/-! ### The tick as a function (R90) -/

/-- The state after a tick that samples `c`. -/
def State.ticked (c : Flags8) (s : State) : State :=
  { s with
    state := nextOf s.cfg.fsm s.state (commandOf c)
    control := c &&& 0xFE
    result := if s.state = .compute then pipeline s else s.result }

/-- In a state its variant has, the model's tick gives that state. -/
theorem sampleTick_eq_ticked (h : s.cfg.fsm.has s.state = true) (c : Flags8) :
    sampleTick c s = some (s.ticked c) :=
  sampleTick_eq_some.2 ⟨_, nextState_eq_nextOf h _, rfl⟩

theorem ticked_of_compute (h : s.state = .compute) :
    s.ticked c = { s with
      state := if s.cfg.fsm = .full then .finish else .idle, control := c &&& 0xFE, result := pipeline s } := by
  rw [State.ticked, h, nextOf_compute, if_pos rfl]

theorem ticked_of_state {st : ControlState} (hs : s.state = st) (hne : st ≠ .compute) :
    s.ticked c = { s with state := nextOf s.cfg.fsm st (commandOf c), control := c &&& 0xFE } := by
  subst hs
  rw [State.ticked, if_neg hne]

/-- A tick outside IDLE looks at no bit of the pattern it stores (R93 to R95, R105). -/
theorem ticked_congr (h : s.state ≠ .idle) (hc : c &&& 0xFE = c' &&& 0xFE) : s.ticked c = s.ticked c' := by
  rw [State.ticked, State.ticked, nextOf_of_ne_idle h (commandOf c) (commandOf c'), hc]

/-! ### The rows and the commands that are the tick -/

theorem has_of_decodeTick {f : Fsm} {st : ControlState} {i : Instr} (h : decodeTick f st = some i) :
    f.has st = true := by
  cases f <;> cases st <;> simp [decodeTick, Fsm.has] at h ⊢

/-- A TICK row in its variant and state is the tick that samples CONTROL (R92 to R95, R99, R100). -/
theorem exec_tickRow {i : Instr} {f : Fsm} {st : ControlState} (hi : decodeTick f st = some i)
    (hf : s.cfg.fsm = f) (hs : s.state = st) : exec i s = .next (s.ticked s.control) := by
  subst hf hs
  exact (exec_decodeTick_next hi).2 (sampleTick_eq_ticked (has_of_decodeTick hi) s.control)

section Commands

variable (h : s.cfg.fsm.has s.state = true) (x : BitVec 5) (mode : BitVec 1)
include h

theorem exec_start (reset : BitVec 1) :
    exec (.start x mode reset) s = .next (s.ticked (x ++ mode ++ reset ++ 0b1#1)) :=
  runCommand_next.2 (sampleTick_eq_ticked h _)

theorem exec_reset : exec (.reset x mode) s = .next (s.ticked (x ++ mode ++ 0b10#2)) :=
  runCommand_next.2 (sampleTick_eq_ticked h _)

theorem exec_nop : exec (.nop x mode) s = .next (s.ticked (x ++ mode ++ 0b00#2)) :=
  runCommand_next.2 (sampleTick_eq_ticked h _)

end Commands

/-! ### Runs of ticks -/

/-- The clock's tick, which samples CONTROL (R90). -/
def State.clock (s : State) : State := s.ticked s.control

theorem clock_cfg : s.clock.cfg = s.cfg := rfl

theorem clock_state : s.clock.state = nextOf s.cfg.fsm s.state (commandOf s.control) := rfl

/-- With nothing scheduled a running engine's step is the clock's tick. -/
theorem step_eq_clock (hs : s.Running) (hn : s.pending = []) : step s = .next s.clock := by
  obtain ⟨t, hstep, htick⟩ := step_nil hs.2 hn hs.has
  rw [tick, sampleTick_eq_ticked hs.has] at htick
  cases htick
  exact hstep

theorem clock_running (hs : s.Running) : s.clock.Running :=
  ⟨sampleTick_wf hs.1 (sampleTick_eq_ticked hs.has s.control), hs.2⟩

/-- With nothing scheduled a run is the clock's tick, iterated. -/
theorem runSteps_eq_clock (hs : s.Running) (hn : s.pending = []) (k : Nat) :
    runSteps k s = .next (State.clock^[k] s) := by
  induction k generalizing s with
  | zero => rfl
  | succ k ih => exact runSteps_succ_next.2 ⟨s.clock, step_eq_clock hs hn, ih (clock_running hs) hn⟩

/-- In IDLE of the full variant, RESET without START moves the engine and touches no register (R103). -/
theorem clock_of_heldReset (hf : s.cfg.fsm = .full) (hs : s.state = .idle) (h0 : s.control.getLsbD 0 = false)
    (h1 : s.control.getLsbD 1 = true) : s.clock = { s with state := .reset } := by
  rw [State.clock, ticked_of_state hs (by decide), commandOf_reset h0 h1, nextOf_idle_reset, if_pos hf,
    and_0xFE_of_getLsbD_zero h0]

/-- The RESET state leads back to IDLE and, but for START, touches no register (R95). -/
theorem clock_of_reset (hs : s.state = .reset) (h0 : s.control.getLsbD 0 = false) :
    s.clock = { s with state := .idle } := by
  rw [State.clock, ticked_of_state hs (by decide), nextOf_reset, and_0xFE_of_getLsbD_zero h0]

/-- In IDLE a pattern without a command changes nothing. -/
theorem clock_of_nop (hs : s.state = .idle) (h0 : s.control.getLsbD 0 = false) (h1 : s.control.getLsbD 1 = false) :
    s.clock = s := by
  rw [State.clock, ticked_of_state hs (by decide), commandOf_nop h0 h1, nextOf_idle_nop,
    and_0xFE_of_getLsbD_zero h0, ← hs]

/-! ### What a step does to RESULT and when it enters COMPUTE -/

/-- What holds of the scheduled word, if there is one, holds of the word the step runs, and the other way round, if
it holds of the unscheduled one. -/
theorem forall_head?_iff {p : StepWord → Prop} (hp : p (unscheduled s)) :
    (∀ w ∈ s.pending.head?, p w) ↔ p (fetch s).1 := by
  cases hn : s.pending with
  | nil => simpa [fetch_nil hn] using hp
  | cons w rest => simp [fetch_cons hn]

theorem kindOf_unscheduled (hp : s.powered = true) : kindOf (unscheduled s) = kindTick := by
  rw [unscheduled, if_pos hp, Laws.RowBits.kindOf_stepWord]

/-- A word other than the tick comes from the schedule. -/
theorem fetch_mem_head? (hp : s.powered = true) (hk : kindOf (fetch s).1 ≠ kindTick) :
    (fetch s).1 ∈ s.pending.head? := by
  cases hn : s.pending with
  | nil => exact absurd (by rw [fetch_nil hn, kindOf_unscheduled hp]) hk
  | cons w rest => simp [fetch_cons hn]

/-- A step that is no host access commits in COMPUTE (R97). -/
theorem step_commits_of_tick (hp : s.powered = true) (h : step s = .next t) (hs : s.state = .compute)
    (hread : kindOf (fetch s).1 ≠ kindRead) (hwrite : kindOf (fetch s).1 ≠ kindWrite) : t.result = pipeline s := by
  obtain ⟨hk, -⟩ | ⟨hk, -⟩ | ⟨-, -, c, -, htick⟩ := step_effect hp h
  · exact absurd hk hread
  · exact absurd hk hwrite
  · obtain ⟨st, -, rfl⟩ := sampleTick_eq_some.1 htick
    exact if_pos hs

/-- A tick ends in COMPUTE only if it begins in IDLE and samples START (R105, R107). -/
theorem sampleTick_enters_compute (h : sampleTick c s = some t) (ht : t.state = .compute) :
    s.state = .idle ∧ c.getLsbD 0 = true := by
  obtain ⟨st, hst, rfl⟩ := sampleTick_eq_some.1 h
  obtain ⟨hidle, hstart⟩ := nextState_compute (hst.trans (congrArg some ht))
  exact ⟨hidle, commandOf_eq_start.1 hstart⟩

end Sys2Proof.Machine

open Sys2Proof Sys2Proof.Machine

/-- Settles O10: the step's kind decides whether it is a tick, and a tick commits in COMPUTE and nowhere else. -/
theorem resultIsWrittenOnlyByTheTickFromCompute : Obligations.ResultIsWrittenOnlyByTheTickFromCompute := by
  intro s t ⟨_, hp⟩ h
  have hkind := forall_head?_iff (s := s) (p := fun w => kindOf w ≠ kindRead ∧ kindOf w ≠ kindWrite)
    (by rw [kindOf_unscheduled hp]; decide)
  simp only [hkind]
  split_ifs with hcommit
  · obtain ⟨hs, hread, hwrite⟩ := hcommit
    exact step_commits_of_tick hp h hs hread hwrite
  · rw [not_and_or, not_and_or, not_not, not_not] at hcommit
    exact step_keeps_result hp h hcommit

/-- Settles O13: a host access leaves the control state, a compute operation begins in COMPUTE, and what is left are
the two ticks, each with the pattern it samples. -/
theorem computeIsEnteredOnlyFromIdleByStart : Obligations.ComputeIsEnteredOnlyFromIdleByStart := by
  intro s t hs h ht hne
  obtain ⟨-, hp⟩ := id hs
  obtain ⟨-, hhost, -⟩ := eachPieceOfStateHasItsWriters s t hs h
  simp only [scheduled_kind_iff hp (show kindRead ≠ kindTick by decide),
    scheduled_kind_iff hp (show kindWrite ≠ kindTick by decide)] at hhost
  have hcases := step_cases hp h
  simp only [fetch_state] at hcases
  obtain ⟨hk, -⟩ | ⟨hk, -⟩ | ⟨hk, -, hcommand⟩ | ⟨-, hcompute, -⟩ | ⟨hk, htick⟩ := hcases
  · exact absurd ((hhost (.inl hk)).2.symm.trans ht) hne
  · exact absurd ((hhost (.inr hk)).2.symm.trans ht) hne
  · obtain ⟨hidle, hstart⟩ := sampleTick_enters_compute hcommand ht
    have hmem := fetch_mem_head? hp (by rw [hk]; decide)
    exact ⟨hidle, .inl ⟨(scheduled_kind_iff hp (by decide)).2 hk, _, hmem, hstart⟩⟩
  · exact absurd hcompute hne
  · obtain ⟨hidle, hstart⟩ := sampleTick_enters_compute htick ht
    exact ⟨hidle, .inr ⟨(forall_head?_iff (kindOf_unscheduled hp)).2 hk, hstart⟩⟩

/-- Settles O45: the selected row is the tick, and the table is read off state by state. -/
theorem tickRowsFollowTheTransitionTable : Obligations.TickRowsFollowTheTransitionTable := by
  intro s hrunning
  obtain ⟨i, hi⟩ := decodeTick_of_has hrunning.has
  refine ⟨i, nextOf s.cfg.fsm s.state (commandOf s.control), hi, exec_tickRow hi rfl rfl, ?start, ?reset, ?nop,
    ?compute, ?finish, ?fromReset, and_0xFE_getLsbD_zero _, and_0xFE_extractLsb' _⟩
  case start => exact fun hs h0 => by rw [hs, commandOf_eq_start.2 h0, nextOf_idle_start]
  case reset => exact fun hs h0 h1 => by rw [hs, commandOf_reset h0 h1, nextOf_idle_reset]
  case nop => exact fun hs h0 h1 => by rw [hs, commandOf_nop h0 h1, nextOf_idle_nop]
  case compute => exact fun hs => by rw [hs, nextOf_compute]
  case finish => exact fun hs => by rw [hs, nextOf_finish]
  case fromReset => exact fun hs => by rw [hs, nextOf_reset]

/-- Settles O47: the command's tick enters COMPUTE, and the step from there commits. -/
theorem startBeginsAnOperationInIdle : Obligations.StartBeginsAnOperationInIdle := by
  intro s x mode reset hrunning hs
  obtain ⟨hcommand, hcontrol⟩ := startPattern x mode reset
  refine ⟨?_, fun hn => step_commits hrunning.2 (has_compute s.cfg.fsm) rfl hn⟩
  rw [exec_start hrunning.has, ticked_of_state hs (by decide), hcommand, hcontrol, nextOf_idle_start]

/-- Settles O48: outside IDLE the tick looks at no command, and the two patterns are stored alike. -/
theorem spuriousStartIsDropped : Obligations.SpuriousStartIsDropped := by
  intro s x mode hrunning hs
  obtain ⟨-, hreset, hstartReset⟩ := resetPattern x mode
  obtain ⟨-, hnop, hstart⟩ := nopPattern x mode
  refine ⟨_, _, ?_, exec_nop hrunning.has x mode, ?_, exec_reset hrunning.has x mode, and_0xFE_getLsbD_zero _,
    and_0xFE_getLsbD_zero _, nextOf_ne_compute hs _, nextOf_ne_compute hs _⟩
  · rw [exec_start hrunning.has, ticked_congr hs (hstart.trans hnop.symm)]
  · rw [exec_start hrunning.has, ticked_congr hs (hstartReset.trans hreset.symm)]

/-- Settles O49: the row of the table for RESET, in every state of both variants. -/
theorem resetCommandActsOnlyInIdleOfTheFullVariant : Obligations.ResetCommandActsOnlyInIdleOfTheFullVariant := by
  intro s x mode hrunning
  obtain ⟨hcommand, hcontrol, -⟩ := resetPattern x mode
  rw [exec_reset hrunning.has, State.ticked, hcommand, hcontrol]
  cases hf : s.cfg.fsm <;> cases hs : s.state <;> rfl

/-- Settles O50: the row of the table for NOP, in every state of both variants. -/
theorem nopFollowsTheUnconditionalTransition : Obligations.NopFollowsTheUnconditionalTransition := by
  intro s x mode hrunning
  obtain ⟨hcommand, hcontrol, -⟩ := nopPattern x mode
  rw [exec_nop hrunning.has, State.ticked, hcommand, hcontrol]
  cases hf : s.cfg.fsm <;> cases hs : s.state <;> rfl

/-- Settles O51: three ticks of the clock, the first into COMPUTE, the second out of it with the commit. -/
theorem operationTakesItsFixedNumberOfTicks : Obligations.OperationTakesItsFixedNumberOfTicks := by
  intro s hrunning hn hs h0
  have hrun := runSteps_eq_clock hrunning hn
  have h₁ : s.clock.state = .compute := by
    rw [clock_state, hs, commandOf_eq_start.2 h0, nextOf_idle_start]
  have h₂ : s.clock.clock.state = if s.cfg.fsm = .full then .finish else .idle := by
    rw [clock_state, h₁, nextOf_compute, clock_cfg]
  have hne : s.clock.clock.state ≠ .compute := by rw [h₂]; split_ifs <;> decide
  refine ⟨s.clock, s.clock.clock, s.clock.clock.clock, hrun 1, hrun 2, hrun 3, if_neg (by rw [hs]; decide),
    if_pos h₁, if_neg hne, rfl, rfl, rfl, fun hf => ?full, fun hf => ?minimal⟩
  case full =>
    rw [if_pos hf] at h₂
    have h₃ : s.clock.clock.clock.state = .idle := by rw [clock_state, h₂, nextOf_finish]
    simp only [statusOf, clock_cfg, hf, h₁, h₂, h₃]
    decide
  case minimal =>
    rw [if_neg (by rw [hf]; decide)] at h₂
    simp only [statusOf, clock_cfg, hf, h₁, h₂]
    decide

/-- Settles O52: COMPUTE of the full variant is two ticks from IDLE, every other state one. -/
theorem engineIsBackInIdleWithinTwoTicks : Obligations.EngineIsBackInIdleWithinTwoTicks := by
  intro s hrunning hn hs
  have hrun := runSteps_eq_clock hrunning hn
  by_cases hidle : s.clock.state = .idle
  · exact ⟨1, s.clock, le_rfl, one_le_two, hrun 1, hidle, rfl⟩
  · have hfinish : s.clock.state = .finish := (nextOf_of_ne_idle_cases hs _).resolve_left hidle
    exact ⟨2, s.clock.clock, one_le_two, le_rfl, hrun 2, by rw [clock_state, hfinish, nextOf_finish], rfl⟩

/-- Settles O53: two ticks are the identity on the idle state with RESET held. -/
theorem heldResetAlternatesForEver : Obligations.HeldResetAlternatesForEver := by
  intro s k hrunning hf hn hs h0 h1
  have hheld : s.clock = { s with state := .reset } := clock_of_heldReset hf hs h0 h1
  have hperiod : State.clock^[2] s = s := by
    rw [Function.iterate_succ_apply, Function.iterate_one, hheld,
      clock_of_reset (s := { s with state := .reset }) rfl h0, ← hs]
  have heven : State.clock^[2 * k] s = s := by
    rw [Function.iterate_mul, Function.iterate_fixed hperiod]
  obtain ⟨hidle, -, -, hreset, -⟩ := statusFollowsItsTable
  rw [runSteps_eq_clock hrunning hn, runSteps_eq_clock hrunning hn, Function.iterate_succ_apply', heven, hheld,
    statusOf, statusOf, hf, hs]
  exact ⟨rfl, rfl, hidle, hreset⟩

/-- Settles O58: the power-on state is a fixed point of the clock's tick. -/
theorem poweredOnEngineRestsUntilTheHostActs : Obligations.PoweredOnEngineRestsUntilTheHostActs := by
  intro c k hv
  have hrest : (State.powerOn c).clock = State.powerOn c := clock_of_nop rfl BitVec.getLsbD_zero BitVec.getLsbD_zero
  rw [runSteps_eq_clock ⟨powerOn_wf hv, rfl⟩ rfl, Function.iterate_fixed hrest]

/-- Settles O40: the row is the tick, and START comes before RESET in the two low bits it samples. -/
theorem tickFullIdleFollowsTheCommand : Obligations.TickFullIdleFollowsTheCommand := by
  intro s hf hs
  rw [exec_tickRow rfl hf hs, ticked_of_state hs (by decide), hf, nextOf_full_idle]

/-- Settles O41: the row is the tick, which commits in COMPUTE and leads to FINISH. -/
theorem tickFullComputeCommitsAndFinishes : Obligations.TickFullComputeCommitsAndFinishes := by
  intro s hf hs
  rw [exec_tickRow rfl hf hs, ticked_of_compute hs, if_pos hf]
  obtain ⟨-, -, hfinish, -⟩ := statusFollowsItsTable
  exact ⟨rfl, hfinish⟩

/-- Settles O42: both rows are the tick outside COMPUTE, and the table leads to IDLE from either. -/
theorem tickFullFinishAndResetReturnToIdle : Obligations.TickFullFinishAndResetReturnToIdle := by
  refine ⟨fun s hf hs => ?finish, fun s hf hs => ?reset, statusFollowsItsTable.1⟩
  case finish => rw [exec_tickRow rfl hf hs, ticked_of_state hs (by decide), nextOf_finish]
  case reset => rw [exec_tickRow rfl hf hs, ticked_of_state hs (by decide), nextOf_reset]

/-- Settles O43: both rows are the tick; in IDLE START alone counts, in COMPUTE the tick commits. -/
theorem tickMinimalStartsLatchesAndReturns : Obligations.TickMinimalStartsLatchesAndReturns := by
  refine ⟨fun s hf hs => ?idle, fun s hf hs => ?compute⟩
  case idle =>
    rw [exec_tickRow rfl hf hs, ticked_of_state hs (by decide), hf, nextOf_minimal_idle]
  case compute =>
    rw [exec_tickRow rfl hf hs, ticked_of_compute hs, if_neg (by rw [hf]; decide)]
    rfl
end

section
/-! SUPPORT. The statements on what completes and what is refused: every operation the decoder reads completes in a
running engine and leaves it running, and POWERON stops for its two reasons. -/

namespace Sys2Proof.Machine

variable {s : State} {i : Instr} {w : StepWord}

/-! ### What completes (R110) -/

/-- A tick of a running engine leaves it running, whatever pattern it samples. -/
theorem ticked_running (hs : s.Running) (c : Flags8) : (s.ticked c).Running :=
  ⟨sampleTick_wf hs.1 (sampleTick_eq_ticked hs.has c), hs.2⟩

/-- What the decoder reads for a running engine completes and leaves it running: a read, a write, or the tick under
one of its three names. -/
theorem exec_of_decodesTo (hs : s.Running) (hd : Laws.DecodesTo s.selection w i) :
    ∃ t, exec i s = .next t ∧ t.Running := by
  obtain ⟨hwf, hp⟩ := id hs
  have htick : ∀ c, sampleTick c s = some (s.ticked c) := sampleTick_eq_ticked hs.has
  cases hd with
  | read _ a =>
    obtain ⟨o, d, hexec⟩ := exec_decodeRead s.selection.cfg.operandRegs a s
    exact ⟨_, hexec, exec_decodeRead_wf hwf hexec, hp⟩
  | write _ a data =>
    obtain ⟨c, xs, ys, b, hexec, -⟩ := exec_decodeWrite s.selection.cfg.operandRegs a data s
    exact ⟨_, hexec, exec_decodeWrite_wf hwf hexec, hp⟩
  | command _ c =>
    exact ⟨s.ticked c, (exec_decodeCommand c s).trans (runCommand_next.2 (htick c)), ticked_running hs c⟩
  | compute _ hcompute => exact ⟨s.clock, (exec_decodeCompute_next hcompute).2 (htick s.control), clock_running hs⟩
  | tick _ hi => exact ⟨s.clock, (exec_decodeTick_next hi).2 (htick s.control), clock_running hs⟩
  | powerOn hoff => exact absurd hoff (ne_false_of_eq_true hp)

/-- With nothing scheduled a running engine ticks and is running again; so a step that does not complete has taken a
word off the schedule, and had the word decoded, its operation would have completed. -/
theorem undecodable_of_step_ne_next (hs : s.Running) (h : ∀ t, step s ≠ .next t) :
    ∃ w rest r, s.pending = w :: rest ∧ decode s.selection w = .error r := by
  cases hn : s.pending with
  | nil => exact absurd (step_eq_clock hs hn) (h s.clock)
  | cons w rest =>
    cases hdecode : decode s.selection w with
    | error r => exact ⟨w, rest, r, rfl, hdecode⟩
    | ok i =>
      obtain ⟨t, hexec, -⟩ :=
        exec_of_decodesTo (s := { s with pending := rest }) hs (Laws.decode_eq_ok_iff.1 hdecode)
      exact absurd ((step_of_decode_ok hn hdecode).trans hexec) (h t)

/-! ### What POWERON refuses (R113, R125) -/

theorem exec_powerOn_of_powered (hp : s.powered = true) : exec .powerOn s = .refused .alreadyPoweredOn := if_pos hp

theorem exec_powerOn_of_invalid (hp : s.powered = false) (hv : s.cfg.valid = false) :
    exec .powerOn s = .refused .invalidConfig := by
  rw [exec, execPowerOn, if_neg (ne_true_of_eq_false hp), if_neg (ne_true_of_eq_false hv)]

end Sys2Proof.Machine

open Sys2Proof Sys2Proof.Machine

/-- Settles O9: a well-formed operation is what the decoder reads from its encoding, and each kind the decoder reads
completes; with nothing scheduled the step is the clock's tick. -/
theorem everyWellFormedOperationCompletes : Obligations.EveryWellFormedOperationCompletes :=
  ⟨fun _ _ hs hi => exec_of_decodesTo hs (Laws.decode_eq_ok_iff.1 (Laws.decode_encode hi)),
    fun s hs hn => ⟨s.clock, step_eq_clock hs hn, clock_running hs⟩,
    fun _ hs h => undecodable_of_step_ne_next hs h⟩

/-- Settles O56, by the two guards of POWERON. -/
theorem powerOnIsRefusedTwiceAndForInvalidConfigurations :
    Obligations.PowerOnIsRefusedTwiceAndForInvalidConfigurations :=
  ⟨fun _ hp => exec_powerOn_of_powered hp, fun _ hp hv => exec_powerOn_of_invalid hp hv⟩
end

section
/-! SUPPORT. The statement on the RESET command: it moves the control state machine of the full variant, through RESET
and back to IDLE, and the minimal variant ignores it. -/

namespace Sys2Proof.Machine

variable {s : State}

/-- The minimal variant looks at START alone: an idle engine without it rests, whatever RESET is (R99). -/
theorem clock_of_minimal_idle (hf : s.cfg.fsm = .minimal) (hs : s.state = .idle) (h0 : s.control.getLsbD 0 = false) :
    s.clock = s := by
  rw [State.clock, ticked_of_state hs (by decide), hf, nextOf_minimal_idle, if_neg (ne_true_of_eq_false h0),
    and_0xFE_of_getLsbD_zero h0, ← hs]

end Sys2Proof.Machine

open Sys2Proof Sys2Proof.Machine

/-- Settles O59: both steps are ticks of the clock; in the full variant they lead to RESET and back, and in the minimal
variant the idle state is a fixed point. -/
theorem resetCommandKeepsTheRegisters : Obligations.ResetCommandKeepsTheRegisters := by
  intro s t u hrunning hn hs h0 h1 ht hu
  rw [step_eq_clock hrunning hn] at ht
  cases ht
  rw [step_eq_clock (clock_running hrunning) hn] at hu
  cases hu
  cases hf : s.cfg.fsm with
  | full =>
    rw [clock_of_heldReset hf hs h0 h1, clock_of_reset (s := { s with state := .reset }) rfl h0, ← hs]
    exact ⟨rfl, rfl⟩
  | minimal =>
    have hrest : s.clock = s := clock_of_minimal_idle hf hs h0
    rw [hrest, hrest]
    exact ⟨rfl, rfl⟩
end
